-- ==== Sys2Proof/Word.lean ====
section
/-! DEFINITION. The word types of the block (00_scope.md R6): a byte of 8 bits, a nibble of 4, the 16-bit codes
of items and errors, the 32-bit value. Only plain abbreviations and the two halves of a byte stand here. -/

namespace Sys2Proof

/-- "A *byte* is 8 bits" (R6). -/
abbrev Byte := BitVec 8

/-- "A *nibble* is 4 bits, 0 to 15" (R6). -/
abbrev Nibble := BitVec 4

/-- An item id or an error code, 16 bits unsigned (R62). -/
abbrev Code := BitVec 16

/-- A 32-bit value (R62). -/
abbrev Long := BitVec 32

end Sys2Proof
end

