-- ==== Sys2Proof/Syntax.lean ====
section
/-! DEFINITION. The operations of the block as data: the message types of 30_encoding.md R72 and `Instr`, one
constructor for each of the 62 rows of spec/opcode_table.json, in the table's order. -/

namespace Sys2Proof

/-- A set of the three assigned flags (30_encoding.md R61); "The type admits no other bit" (R129). -/
structure Flags where
  unknownId      : Bool
  notSupported   : Bool
  parameterError : Bool
deriving DecidableEq, Repr

/-- The nine variants of a value (R72, 44_command_builder.md R131). Signed variants hold an integer, whose range
is a check of WellFormed; unsigned ones hold their bits. -/
inductive Value where
  | empty
  | u8 (n : Byte)
  | i8 (n : Int)
  | u16 (n : BitVec 16)
  | i16 (n : Int)
  | u32 (n : Long)
  | i32 (n : Int)
  | ascii (s : List Byte)
  | other (b : List Byte)
deriving DecidableEq, Repr

/-- "origin := Get | Set | Async" (R72). -/
inductive Origin where
  | get
  | set
  | async
deriving DecidableEq, Repr

/-- A command of the host (R59, R72). -/
inductive Command where
  | boot
  | ping
  | version
  | product
  | restart
  | get (item : Code) (flags : Flags)
  | set (item : Code) (flags : Flags) (value : Value)
  | async (item : Code) (flags : Flags) (value : Value)
deriving DecidableEq, Repr

/-- A typed response of the device (R72, 45_response_parser.md R144 to R150). Ping's flags nibble is "4 bits unsigned,
held in a byte" (R62). -/
inductive Response where
  | done (value : Value)
  | unknown (value : Value)
  | error (code : Code)
  | ping (flags : Byte) (major : Nibble) (minor : Byte)
  | update (origin : Origin) (item : Code) (flags : Flags) (value : Value)
deriving DecidableEq, Repr

/-- The operations, one constructor per row of spec/opcode_table.json (30_encoding.md R75).

`push…` is PUSH of one byte of a class (format RXBYTE); `cmd…` the frame of one command (CMD); `rsp…` the
parsing of a frame with one id, `rest` being the frame's bytes after byte 0 (RSP); then the five events (EVENT)
and the pure functions, composites and observations (FUNC). -/
inductive Instr where
  | pushColon
  | pushLf
  | pushDigit0
  | pushDigit1
  | pushDigit2
  | pushDigit3
  | pushDigit4
  | pushDigit5
  | pushDigit6
  | pushDigit7
  | pushDigit8
  | pushDigit9
  | pushDigitA
  | pushDigitB
  | pushDigitC
  | pushDigitD
  | pushDigitE
  | pushDigitF
  | pushDigitLcA
  | pushDigitLcB
  | pushDigitLcC
  | pushDigitLcD
  | pushDigitLcE
  | pushDigitLcF
  | pushOther (c : Byte)
  | cmdBoot
  | cmdPing
  | cmdVersion
  | cmdProduct
  | cmdRestart
  | cmdGet (item : Code) (flags : Flags)
  | cmdSet (item : Code) (flags : Flags) (value : Value)
  | cmdAsync (item : Code) (flags : Flags) (value : Value)
  | rspDone (rest : List Byte)
  | rspUnknown (rest : List Byte)
  | rspError (rest : List Byte)
  | rspPing (rest : List Byte)
  | rspGet (rest : List Byte)
  | rspSet (rest : List Byte)
  | rspAsync (rest : List Byte)
  | rspUnassigned (code : Byte) (rest : List Byte)
  | reset
  | clear
  | push (c : Byte)
  | encLoad (f : List Byte)
  | encNext
  | nibble (b : Byte)
  | hex (v : Byte)
  | csum (s : List Byte)
  | valid (s : List Byte)
  | mkcsum (s : List Byte)
  | encode (f : List Byte)
  | build (cmd : Command)
  | flagbyte (flags : Flags)
  | venc (value : Value)
  | send (cmd : Command)
  | parse (f : List Byte)
  | guess (v : List Byte)
  | pushSlice (s : List Byte)
  | decode (w : List Byte)
  | done
  | frame
deriving DecidableEq, Repr

end Sys2Proof
end

