-- ==== Sys2Proof/Machine/Fields.lean ====
section
/-! DEFINITION. The block's byte sequences and bit fields, each decided in one place: the order of the bytes of a
multi-byte field (20_memory.md R31), the halves of a byte (00_scope.md R6), the flag masks (30_encoding.md R61),
the marker and the buffer primitives of R7. -/

namespace Sys2Proof.Machine

/-- "the *low nibble* of a byte `b` is `b[3:0]`" (R6). -/
def lowNibble (b : Byte) : Nibble := b.extractLsb' 0 4

/-- "the *high nibble* is `b[7:4]`" (R6). -/
def highNibble (b : Byte) : Nibble := b.extractLsb' 4 4

/-- `zext_8` of a nibble (R7). -/
def zextNibble (v : Nibble) : Byte := v.setWidth 8

/-- `v << 4` in 8 bits: "high nibble `v`, low nibble 0" (42_frame_decoder.md R97). -/
def shiftedNibble (v : Nibble) : Byte := zextNibble v <<< 4

/-- A byte sequence as a number, the first byte the least significant (R7, R31). -/
def leNat : List Byte → Nat
  | [] => 0
  | b :: bs => b.toNat + 256 * leNat bs

/-- The `n` bytes of a number modulo 256^n, the least significant first (R31, R34). -/
def leBytes : Nat → Nat → List Byte
  | 0, _ => []
  | n + 1, v => BitVec.ofNat 8 v :: leBytes n (v / 256)

/-- `MemRead(p:i, n)`: "the `n` bytes … assembled little-endian into an unsigned number" (R7). -/
def memRead (p : List Byte) (i n : Nat) : Nat := leNat ((p.drop i).take n)

/-- `rbuf[i]`, `tbuf[i]`: "defined only for `0 <= i < rlen` (or `tlen`)" (R7, R15). -/
def readByte (buf : List Byte) (i : Nat) : Option Byte := buf[i]?

/-- A buffer as addressed cells: the byte at index `i` is the cell (i, byte). A buffer is stored as its bytes in
index order, so that its cells are always in the one canonical form (log 8). -/
def Memory.cells (buf : List Byte) : List Host.Cell := buf.zipIdx.map (fun c => (c.2, c.1))

/-- The canonical form of a buffer's cells: the addresses are 0, 1, 2, …, each once and in order; an address that
is not listed holds no value (R15). -/
def Memory.wf (cells : List Host.Cell) : Bool := decide (cells.map Prod.fst = List.range cells.length)

/-- `append(rbuf, v)`: store at `rlen` and raise `rlen` by one (R7). -/
def appendByte (buf : List Byte) (v : Byte) : List Byte := buf ++ [v]

/-- `rbuf[rlen-1] <- rbuf[rlen-1] | v` (R94). -/
def orLast (buf : List Byte) (v : Nibble) : List Byte :=
  buf.modify (buf.length - 1) (fun b => b ||| zextNibble v)

/-- `ends_with(s, m)` (R7). -/
def endsWith (s m : List Byte) : Bool :=
  decide (m.length ≤ s.length) && decide (s.drop (s.length - m.length) = m)

/-- MARKER, the ten bytes of `"\nChecksum\t"` (R5, R52). -/
def marker : List Byte := [0x0A, 0x43, 0x68, 0x65, 0x63, 0x6B, 0x73, 0x75, 0x6D, 0x09]

/-- The OR of the masks of a set's members: UnknownId 0x01, NotSupported 0x02, ParameterError 0x04 (R61, R129). -/
def flagbyte (f : Flags) : Byte :=
  (if f.unknownId then 0x01 else 0x00) ||| (if f.notSupported then 0x02 else 0x00)
    ||| (if f.parameterError then 0x04 else 0x00)

/-- "the set of R61 members whose bit is 1" (R148). -/
def flagsOfByte (b : Byte) : Flags :=
  { unknownId := b.getLsbD 0, notSupported := b.getLsbD 1, parameterError := b.getLsbD 2 }

/-- Bits 7:3 of a flags byte, "not assigned; must be zero" (R61, R68). -/
def reservedFlagBits (b : Byte) : Bool := b &&& 0xF8 != 0

end Sys2Proof.Machine
end

