-- ==== Sys2Proof/Config.lean ====
section
/-! DEFINITION. The static parameters of the block (00_scope.md R5): "A model takes each as an argument (a
configuration field); none changes while the block runs." And the two values the spec leaves unspecified on a
port (10_state.md R20), as constants without a body. -/

namespace Sys2Proof

/-- The static parameters of R5. The fixed ones (accepted sums, generated sum, marker, data width) are
constants of the operations, not fields. -/
structure Config where
  /-- `BUF_CAP`: `none` is `unbounded`. -/
  bufCap   : Option Nat
  /-- `TEXT_EN`: `true` is the dual-format block, `false` the hex-only variant. -/
  textEn   : Bool
  /-- `ITEM_IDS`, the codes of the closed enumeration ItemId. -/
  itemIds  : List Code
  /-- `ERROR_IDS`, the codes of the closed enumeration ErrorId. -/
  errorIds : List Code
deriving DecidableEq, Repr

/-- What R5 demands of the parameters: `BUF_CAP` is "at least 11" or unbounded, and `ITEM_IDS` "contains at
least 0xEDF0 (BatteryMaximumCurrent) and 0x0201". -/
def Config.wf (c : Config) : Bool :=
  (match c.bufCap with
    | none => true
    | some n => decide (11 ≤ n))
  && c.itemIds.contains 0xEDF0 && c.itemIds.contains 0x0201

/-- The parameters a machine is reset with in this model: TEXT_EN = 1 is R5's value for this hardware; the other
three are OPEN in the spec and these are the ones spec/95_test_vectors.md takes "unless said otherwise".
DESIGN CHOICE, log 7; no statement rests on them. -/
def Config.vectors : Config :=
  { bufCap := none, textEn := true, itemIds := [0xEDF0, 0x0201], errorIds := [] }

/-- FREE VALUE. `rd_data` for an index at or above `rlen` (R20 "otherwise unspecified"), by draw and index;
log 6. -/
opaque Config.freeRdData : Nat → Nat → Byte

/-- FREE VALUE. `tx_data` while `tact` = 0 (R20 "defined while `tact` = 1"), by draw; log 6. -/
opaque Config.freeTxData : Nat → Byte

end Sys2Proof
end

