-- ==== Sys2Proof/WellFormed.lean ====
section
/-! DEFINITION. The checks an operation must pass before it is one the spec gives a meaning: the byte of a class
row is of that class (30_encoding.md R54), an unassigned response code is not an assigned one (R60, R66), a signed
value is in its variant's range (R131), and an item operand is a member of ITEM_IDS (R130). -/

namespace Sys2Proof

/-- HEXDIGIT of R54: 0x30 to 0x39, 0x41 to 0x46, 0x61 to 0x66. -/
def isHexDigit (c : Byte) : Bool :=
  (0x30 ≤ c && c ≤ 0x39) || (0x41 ≤ c && c ≤ 0x46) || (0x61 ≤ c && c ≤ 0x66)

/-- OTHER of R54: none of COLON, LF, HEXDIGIT. -/
def isOther (c : Byte) : Bool :=
  c != 0x3A && c != 0x0A && !isHexDigit c

/-- The seven assigned response codes (R60). -/
def responseCodes : List Byte := [0x01, 0x03, 0x04, 0x05, 0x07, 0x08, 0x0A]

/-- The ranges of R131's signed variants. -/
def Value.wellFormed : Value → Bool
  | .empty => true
  | .u8 _ => true
  | .i8 n => decide (-128 ≤ n) && decide (n ≤ 127)
  | .u16 _ => true
  | .i16 n => decide (-32768 ≤ n) && decide (n ≤ 32767)
  | .u32 _ => true
  | .i32 n => decide (-2147483648 ≤ n) && decide (n ≤ 2147483647)
  | .ascii _ => true
  | .other _ => true

/-- "it cannot be asked to send a code outside `ITEM_IDS`" (R130). -/
def Config.isItem (cfg : Config) (item : Code) : Bool := cfg.itemIds.contains item

/-- A command the builder can be asked for. -/
def Command.wellFormed (cfg : Config) : Command → Bool
  | .boot => true
  | .ping => true
  | .version => true
  | .product => true
  | .restart => true
  | .get item _ => cfg.isItem item
  | .set item _ value => cfg.isItem item && value.wellFormed
  | .async item _ value => cfg.isItem item && value.wellFormed

/-- The checks of every constructor. -/
def Instr.wellFormed (cfg : Config) : Instr → Bool
  | .pushColon => true
  | .pushLf => true
  | .pushDigit0 => true
  | .pushDigit1 => true
  | .pushDigit2 => true
  | .pushDigit3 => true
  | .pushDigit4 => true
  | .pushDigit5 => true
  | .pushDigit6 => true
  | .pushDigit7 => true
  | .pushDigit8 => true
  | .pushDigit9 => true
  | .pushDigitA => true
  | .pushDigitB => true
  | .pushDigitC => true
  | .pushDigitD => true
  | .pushDigitE => true
  | .pushDigitF => true
  | .pushDigitLcA => true
  | .pushDigitLcB => true
  | .pushDigitLcC => true
  | .pushDigitLcD => true
  | .pushDigitLcE => true
  | .pushDigitLcF => true
  | .pushOther c => isOther c
  | .cmdBoot => true
  | .cmdPing => true
  | .cmdVersion => true
  | .cmdProduct => true
  | .cmdRestart => true
  | .cmdGet item _ => cfg.isItem item
  | .cmdSet item _ value => cfg.isItem item && value.wellFormed
  | .cmdAsync item _ value => cfg.isItem item && value.wellFormed
  | .rspDone _ => true
  | .rspUnknown _ => true
  | .rspError _ => true
  | .rspPing _ => true
  | .rspGet _ => true
  | .rspSet _ => true
  | .rspAsync _ => true
  | .rspUnassigned code _ => !responseCodes.contains code
  | .reset => true
  | .clear => true
  | .push _ => true
  | .encLoad _ => true
  | .encNext => true
  | .nibble _ => true
  | .hex _ => true
  | .csum _ => true
  | .valid _ => true
  | .mkcsum _ => true
  | .encode _ => true
  | .build cmd => cmd.wellFormed cfg
  | .flagbyte _ => true
  | .venc value => value.wellFormed
  | .send cmd => cmd.wellFormed cfg
  | .parse _ => true
  | .guess _ => true
  | .pushSlice _ => true
  | .decode _ => true
  | .done => true
  | .frame => true

end Sys2Proof
end

