-- ==== Sys2Proof/Decode.lean ====
section
/-! DEFINITION. From the bytes of one request of the host to an operation, total, rejecting by name, and back.

What the spec gives: the 8-bit match and mask of the RXBYTE, CMD and RSP rows (30_encoding.md R54, R59, R60,
R75) and the strobe strings of the EVENT rows (R76). The same byte stands in several formats (0x01 is a received
byte, the command Ping and the response Done: "the direction, not the code, selects the table", R60), and the
FUNC rows and most operands have no bits at all. So a request is, by DESIGN CHOICE (log 2),

  byte 0        the row's byte: the match, the strobes (bit 2 `rst`, bit 1 `clr` or `enc_load`, bit 0 `rx_valid`
                or `enc_next`), or for FUNC the row's place in the table's FUNC rows, from 0
  byte 1        the format: 1 RXBYTE, 2 CMD, 3 RSP, 4 EVENT of the decoder, 5 EVENT of the encoder, 6 FUNC
  bytes 2 ..    the operands, in the order of the constructor's arguments

and a request of ONE byte is the table's bare 8-bit word (log 3). -/

namespace Sys2Proof

open Machine

/-- Why a request is no operation of the table. -/
inductive DecodeError where
  /-- The request has no byte. -/
  | emptyRequest
  /-- Byte 1 names no format. -/
  | unknownFormat (b : Byte)
  /-- The byte is no assigned command code (30_encoding.md R67, "a closed variant"). -/
  | unassignedCommand (code : Byte)
  /-- The strobes say "no event = 000" (R76), or a bit above the three strobes is set. -/
  | noEvent (strobes : Byte)
  /-- The byte numbers no FUNC row. -/
  | unknownFunction (b : Byte)
  /-- A flags operand with a bit of 7:3 set (R61, R129). -/
  | reservedFlagsOperand (b : Byte)
  /-- The operand bytes do not have the shape the operation takes. -/
  | badOperands
deriving DecidableEq, Repr

/-! ### The tables -/

/-- The RXBYTE rows with a full mask: COLON, LF, the 22 hex digits (R54, R55). -/
def rxRows : List (Byte × Instr) :=
  [(0x3A, .pushColon),
   (0x0A, .pushLf),
   (0x30, .pushDigit0),
   (0x31, .pushDigit1),
   (0x32, .pushDigit2),
   (0x33, .pushDigit3),
   (0x34, .pushDigit4),
   (0x35, .pushDigit5),
   (0x36, .pushDigit6),
   (0x37, .pushDigit7),
   (0x38, .pushDigit8),
   (0x39, .pushDigit9),
   (0x41, .pushDigitA),
   (0x42, .pushDigitB),
   (0x43, .pushDigitC),
   (0x44, .pushDigitD),
   (0x45, .pushDigitE),
   (0x46, .pushDigitF),
   (0x61, .pushDigitLcA),
   (0x62, .pushDigitLcB),
   (0x63, .pushDigitLcC),
   (0x64, .pushDigitLcD),
   (0x65, .pushDigitLcE),
   (0x66, .pushDigitLcF)]

/-- The CMD rows, with all operands zero (R59). -/
def cmdRows : List (Byte × Instr) :=
  [(0x00, .cmdBoot), (0x01, .cmdPing), (0x03, .cmdVersion), (0x04, .cmdProduct), (0x06, .cmdRestart),
   (0x07, .cmdGet 0 ⟨false, false, false⟩), (0x08, .cmdSet 0 ⟨false, false, false⟩ .empty),
   (0x0A, .cmdAsync 0 ⟨false, false, false⟩ .empty)]

/-- The RSP rows with a full mask, of a frame with the given bytes after byte 0 (R60). -/
def rspRows (rest : List Byte) : List (Byte × Instr) :=
  [(0x01, .rspDone rest), (0x03, .rspUnknown rest), (0x04, .rspError rest), (0x05, .rspPing rest),
   (0x07, .rspGet rest), (0x08, .rspSet rest), (0x0A, .rspAsync rest)]

/-- "rows are tried in order and the first whose `(byte & mask) = match` holds wins" (R75), for rows whose mask
is 0xFF; the catch-all row, mask 0x00, is the default. -/
def lookupRow (rows : List (Byte × Instr)) (catchAll : Instr) (b : Byte) : Instr :=
  match rows.find? (fun r => b &&& 0xFF == r.1) with
  | some r => r.2
  | none => catchAll

/-- PUSH's byte classes (R54): OTHER is tried last. -/
def rxInstr (c : Byte) : Instr := lookupRow rxRows (.pushOther c) c

/-- The response rows: RSP.unassigned is tried last (R75). -/
def rspInstr (code : Byte) (rest : List Byte) : Instr := lookupRow (rspRows rest) (.rspUnassigned code rest) code

/-- A bare 8-bit word of the table: the rows with a full mask in the table's order, RXBYTE, CMD, RSP, then the
catch-all. DESIGN CHOICE, log 3. -/
def bareInstr (b : Byte) : Instr := lookupRow (rxRows ++ cmdRows ++ rspRows []) (.pushOther b) b

/-! ### Operands -/

def oneByte : List Byte → Except DecodeError Byte
  | [b] => .ok b
  | _ => .error .badOperands

def noOperand (ops : List Byte) (i : Instr) : Except DecodeError Instr :=
  if ops = [] then .ok i else .error .badOperands

def decodeFlags (b : Byte) : Except DecodeError Flags :=
  if reservedFlagBits b then .error (.reservedFlagsOperand b) else .ok (flagsOfByte b)

/-- A value operand: a variant byte, 0 to 8 in the order of R131's table, and the variant's bytes. -/
def decodeValue : List Byte → Except DecodeError Value
  | [] => .error .badOperands
  | t :: r =>
    match t.toNat, r with
    | 0, [] => .ok .empty
    | 1, [a] => .ok (.u8 a)
    | 2, [a] => .ok (.i8 a.toInt)
    | 3, [a, b] => .ok (.u16 (BitVec.ofNat 16 (leNat [a, b])))
    | 4, [a, b] => .ok (.i16 (BitVec.ofNat 16 (leNat [a, b])).toInt)
    | 5, [a, b, c, d] => .ok (.u32 (BitVec.ofNat 32 (leNat [a, b, c, d])))
    | 6, [a, b, c, d] => .ok (.i32 (BitVec.ofNat 32 (leNat [a, b, c, d])).toInt)
    | 7, s => .ok (.ascii s)
    | 8, s => .ok (.other s)
    | _, _ => .error .badOperands

/-- The operands of Get: item little-endian, flags (R57). -/
def decodeItemFlags (ops : List Byte) : Except DecodeError (Code × Flags) :=
  match ops with
  | [a, b, f] => (decodeFlags f).map (fun fl => (BitVec.ofNat 16 (leNat [a, b]), fl))
  | _ => .error .badOperands

/-- The operands of Set and Async: item, flags, value (R57). -/
def decodeItemFlagsValue (ops : List Byte) : Except DecodeError (Code × Flags × Value) :=
  match decodeItemFlags (ops.take 3) with
  | .error e => .error e
  | .ok (item, flags) => (decodeValue (ops.drop 3)).map (fun v => (item, flags, v))

/-- A command: its code (R59) and its operands (R57). -/
def decodeCommand (code : Byte) (ops : List Byte) : Except DecodeError Command :=
  match code.toNat with
  | 0x00 => if ops = [] then .ok .boot else .error .badOperands
  | 0x01 => if ops = [] then .ok .ping else .error .badOperands
  | 0x03 => if ops = [] then .ok .version else .error .badOperands
  | 0x04 => if ops = [] then .ok .product else .error .badOperands
  | 0x06 => if ops = [] then .ok .restart else .error .badOperands
  | 0x07 => (decodeItemFlags ops).map (fun p => .get p.1 p.2)
  | 0x08 => (decodeItemFlagsValue ops).map (fun p => .set p.1 p.2.1 p.2.2)
  | 0x0A => (decodeItemFlagsValue ops).map (fun p => .async p.1 p.2.1 p.2.2)
  | _ => .error (.unassignedCommand code)

/-- The CMD row of a command. -/
def cmdInstr : Command → Instr
  | .boot => .cmdBoot
  | .ping => .cmdPing
  | .version => .cmdVersion
  | .product => .cmdProduct
  | .restart => .cmdRestart
  | .get item flags => .cmdGet item flags
  | .set item flags value => .cmdSet item flags value
  | .async item flags value => .cmdAsync item flags value

/-- A command operand of `build` and `SEND`: the code first. -/
def decodeCommandOperand : List Byte → Except DecodeError Command
  | [] => .error .badOperands
  | code :: ops => decodeCommand code ops

/-! ### The formats -/

/-- R76 over (`rst`, `clr`, `rx_valid`): RESET = `1xx`, CLEAR = `01x`, PUSH = `001`. -/
def decodeDecoderStrobes (strobes : Byte) (ops : List Byte) : Except DecodeError Instr :=
  if strobes &&& 0xFC = 0x04 then noOperand ops .reset
  else if strobes &&& 0xFE = 0x02 then noOperand ops .clear
  else if strobes = 0x01 then (oneByte ops).map .push
  else .error (.noEvent strobes)

/-- R76 over (`rst`, `enc_load`, `enc_next`): RESET = `1xx`, ENC_LOAD = `01x`, ENC_NEXT = `001`. -/
def decodeEncoderStrobes (strobes : Byte) (ops : List Byte) : Except DecodeError Instr :=
  if strobes &&& 0xFC = 0x04 then noOperand ops .reset
  else if strobes &&& 0xFE = 0x02 then .ok (.encLoad ops)
  else if strobes = 0x01 then noOperand ops .encNext
  else .error (.noEvent strobes)

/-- The FUNC rows, numbered from 0 in the table's order (log 2). -/
def decodeFunction (n : Byte) (ops : List Byte) : Except DecodeError Instr :=
  match n.toNat with
  | 0 => (oneByte ops).map .nibble
  | 1 => (oneByte ops).map .hex
  | 2 => .ok (.csum ops)
  | 3 => .ok (.valid ops)
  | 4 => .ok (.mkcsum ops)
  | 5 => .ok (.encode ops)
  | 6 => (decodeCommandOperand ops).map .build
  | 7 => match oneByte ops with
    | .error e => .error e
    | .ok b => (decodeFlags b).map .flagbyte
  | 8 => (decodeValue ops).map .venc
  | 9 => (decodeCommandOperand ops).map .send
  | 10 => .ok (.parse ops)
  | 11 => .ok (.guess ops)
  | 12 => .ok (.pushSlice ops)
  | 13 => .ok (.decode ops)
  | 14 => noOperand ops .done
  | 15 => noOperand ops .frame
  | _ => .error (.unknownFunction n)

/-- One request's bytes to the operation they stand for. -/
def decode : List Byte → Except DecodeError Instr
  | [] => .error .emptyRequest
  | [b] => .ok (bareInstr b)
  | b :: format :: ops =>
    match format.toNat with
    | 1 => noOperand ops (rxInstr b)
    | 2 => (decodeCommand b ops).map cmdInstr
    | 3 => .ok (rspInstr b ops)
    | 4 => decodeDecoderStrobes b ops
    | 5 => decodeEncoderStrobes b ops
    | 6 => decodeFunction b ops
    | _ => .error (.unknownFormat format)

/-- The operation the decoder reads from a word of spec/opcode_table.json. Every row with bits has `width` 8; a
row without bits (`width` 0) has no word. -/
def decodeTableWord (nbits w : Nat) : Option Instr :=
  if nbits = 0 then none else (decode [BitVec.ofNat 8 w]).toOption

/-! ### The encoder -/

/-- A value operand's bytes. -/
def encodeValue : Value → List Byte
  | .empty => [0]
  | .u8 n => [1, n]
  | .i8 n => 2 :: leBytes 1 (BitVec.ofInt 8 n).toNat
  | .u16 n => 3 :: leBytes 2 n.toNat
  | .i16 n => 4 :: leBytes 2 (BitVec.ofInt 16 n).toNat
  | .u32 n => 5 :: leBytes 4 n.toNat
  | .i32 n => 6 :: leBytes 4 (BitVec.ofInt 32 n).toNat
  | .ascii s => 7 :: s
  | .other b => 8 :: b

/-- Item and flags operands (R57). -/
def encodeItemFlags (item : Code) (flags : Flags) : List Byte := leBytes 2 item.toNat ++ [flagbyte flags]

/-- A command's code and operands; the format byte goes between the two in the CMD format. -/
def commandCode : Command → Byte
  | .boot => 0x00
  | .ping => 0x01
  | .version => 0x03
  | .product => 0x04
  | .restart => 0x06
  | .get _ _ => 0x07
  | .set _ _ _ => 0x08
  | .async _ _ _ => 0x0A

def commandOperands : Command → List Byte
  | .boot => []
  | .ping => []
  | .version => []
  | .product => []
  | .restart => []
  | .get item flags => encodeItemFlags item flags
  | .set item flags value => encodeItemFlags item flags ++ encodeValue value
  | .async item flags value => encodeItemFlags item flags ++ encodeValue value

def encodeCommand (cmd : Command) : List Byte := commandCode cmd :: 2 :: commandOperands cmd

/-- The bytes of an operation, in its row's format. -/
def encode : Instr → List Byte
  | .pushColon => [0x3A, 1]
  | .pushLf => [0x0A, 1]
  | .pushDigit0 => [0x30, 1]
  | .pushDigit1 => [0x31, 1]
  | .pushDigit2 => [0x32, 1]
  | .pushDigit3 => [0x33, 1]
  | .pushDigit4 => [0x34, 1]
  | .pushDigit5 => [0x35, 1]
  | .pushDigit6 => [0x36, 1]
  | .pushDigit7 => [0x37, 1]
  | .pushDigit8 => [0x38, 1]
  | .pushDigit9 => [0x39, 1]
  | .pushDigitA => [0x41, 1]
  | .pushDigitB => [0x42, 1]
  | .pushDigitC => [0x43, 1]
  | .pushDigitD => [0x44, 1]
  | .pushDigitE => [0x45, 1]
  | .pushDigitF => [0x46, 1]
  | .pushDigitLcA => [0x61, 1]
  | .pushDigitLcB => [0x62, 1]
  | .pushDigitLcC => [0x63, 1]
  | .pushDigitLcD => [0x64, 1]
  | .pushDigitLcE => [0x65, 1]
  | .pushDigitLcF => [0x66, 1]
  | .pushOther c => [c, 1]
  | .cmdBoot => encodeCommand .boot
  | .cmdPing => encodeCommand .ping
  | .cmdVersion => encodeCommand .version
  | .cmdProduct => encodeCommand .product
  | .cmdRestart => encodeCommand .restart
  | .cmdGet item flags => encodeCommand (.get item flags)
  | .cmdSet item flags value => encodeCommand (.set item flags value)
  | .cmdAsync item flags value => encodeCommand (.async item flags value)
  | .rspDone rest => 0x01 :: 3 :: rest
  | .rspUnknown rest => 0x03 :: 3 :: rest
  | .rspError rest => 0x04 :: 3 :: rest
  | .rspPing rest => 0x05 :: 3 :: rest
  | .rspGet rest => 0x07 :: 3 :: rest
  | .rspSet rest => 0x08 :: 3 :: rest
  | .rspAsync rest => 0x0A :: 3 :: rest
  | .rspUnassigned code rest => code :: 3 :: rest
  | .reset => [0x04, 4]
  | .clear => [0x02, 4]
  | .push c => [0x01, 4, c]
  | .encLoad f => 0x02 :: 5 :: f
  | .encNext => [0x01, 5]
  | .nibble b => [0, 6, b]
  | .hex v => [1, 6, v]
  | .csum s => 2 :: 6 :: s
  | .valid s => 3 :: 6 :: s
  | .mkcsum s => 4 :: 6 :: s
  | .encode f => 5 :: 6 :: f
  | .build cmd => 6 :: 6 :: commandCode cmd :: commandOperands cmd
  | .flagbyte flags => [7, 6, Machine.flagbyte flags]
  | .venc value => 8 :: 6 :: encodeValue value
  | .send cmd => 9 :: 6 :: commandCode cmd :: commandOperands cmd
  | .parse f => 10 :: 6 :: f
  | .guess v => 11 :: 6 :: v
  | .pushSlice s => 12 :: 6 :: s
  | .decode w => 13 :: 6 :: w
  | .done => [14, 6]
  | .frame => [15, 6]

end Sys2Proof
end

