-- ==== Sys2Proof/Machine/State.lean ====
section
/-! DEFINITION. The state of the block (10_state.md), as plain data: the decoder (R11), the encoder (R14), the
static parameters (00_scope.md R5), and the model's own fields that stand for the host (INVENTORY.md, '## State').
`rlen` and `tlen` are the lengths of `rbuf` and `tbuf` and are not stored a second time (log 8). -/

namespace Sys2Proof.Machine

/-- The decoder's FSM states (R11). -/
inductive Fsm where
  | start
  | lowNibble
  | highNibble
  | text
deriving DecidableEq, Repr

/-- `fmt`: "which branch the last Start transition took" (R11). -/
inductive Fmt where
  | hex
  | text
deriving DecidableEq, Repr

/-- The error kinds (60_exceptions.md R160). -/
inductive ErrKind where
  | none
  | invalidHexDigit
  | lengthMismatch
  | checksumInvalid
  | unknownResponseId
  | unknownErrorId
  | unknownItemId
  | sliceConversionFailed
  | invalidFlagsBits
  | encInvariant
deriving DecidableEq, Repr

/-- `K(info)`: a kind and the value R160's table records with it, if any. -/
structure Err where
  kind : ErrKind
  info : Option Byte
deriving DecidableEq, Repr

/-- The result of `decode(w)` (42_frame_decoder.md R105). -/
inductive WireResult where
  | ok (frame : List Byte)
  | err (e : Err)
  | incomplete
deriving DecidableEq, Repr

/-- What an operation returns to the host (R7, R8, R165). MODEL's own, log 4. -/
inductive Result where
  /-- The operation returns nothing, or ENC_NEXT returns `none`. -/
  | none
  | err (e : Err)
  | byte (b : Byte)
  | nibble (v : Nibble)
  | bytes (s : List Byte)
  | bool (b : Bool)
  | value (v : Value)
  | response (r : Response)
  /-- `push_slice`: the number of bytes consumed and the error, if one was raised (R104). -/
  | consumed (n : Nat) (e : Option Err)
  | wire (r : WireResult)
  /-- A clock edge with an event of each agent: the decoder's and the encoder's result. -/
  | both (dec enc : Result)
deriving DecidableEq, Repr

/-- The decoder's state, "exactly these fields" (R11). -/
structure Decoder where
  state : Fsm
  rbuf  : List Byte
  fmt   : Fmt
  ferr  : ErrKind
  ebyte : Byte
deriving DecidableEq, Repr

/-- The encoder's state, "exactly these fields" (R14). -/
structure Encoder where
  tbuf  : List Byte
  tpos  : Nat
  tact  : Bool
  tferr : ErrKind
deriving DecidableEq, Repr

/-- The input ports sampled at one rising edge of `clk` (R20). `encFrame` is the bits of the port `enc_frame` as
one number, byte `i` in bits 8i+7 : 8i (log 15). The input `rd_idx` only selects what `rd_data` shows: it is the
argument of `portOut`. -/
structure PortIn where
  rst      : Bool
  rxValid  : Bool
  rxData   : Byte
  clr      : Bool
  encLoad  : Bool
  encFrame : Nat
  encLen   : Nat
  encNext  : Bool
deriving DecidableEq, Repr

/-- The output ports (R20), bit vectors where R20 gives a width that does not depend on BUF_CAP.

DESIGN CHOICE, log 23: R18 ("every field is a direct output port") and 60_exceptions.md R180 speak of every field,
while R20's list has no output for `tbuf`, `tlen` and `tpos`. These are the ports of R20's list; the three are
readable as fields of `State` only. -/
structure PortOut where
  state  : BitVec 2
  done   : Bool
  valid  : Bool
  fmt    : BitVec 1
  fault  : Bool
  rlen   : Nat
  rdData : Byte
  csum   : Byte
  ferr   : BitVec 4
  ebyte  : Byte
  txData : Byte
  tact   : Bool
  tferr  : BitVec 4
deriving DecidableEq, Repr

/-- One request of the host: an operation of the table as bytes (log 2), or one clock edge of the ports. -/
inductive Request where
  | op (bytes : List Byte)
  | edge (ports : PortIn)
deriving DecidableEq, Repr

/-- The machine. `cfg`, `dec` and `enc` are the spec's; `pending`, `result`, `tx` and `draws` stand for the host
(logs 1, 4, 5, 6). -/
structure State where
  cfg     : Config
  dec     : Decoder
  enc     : Encoder
  pending : List Request
  result  : Result
  tx      : List Byte
  draws   : Nat
deriving DecidableEq, Repr

/-- What stops the machine. "None of the source's errors is 'undefined behaviour': each has a defined outcome"
(60_exceptions.md R185), so an error of a PUSH, an ENC_LOAD or a function is a next state, never one of these. -/
inductive Fault where
  /-- ENC_NEXT met a byte it has no digit for, or an index at or above `tlen`: the source's "internal invariant
  violation" (43_frame_encoder.md R111, 40_nibble_codec.md R83 "inside the block `hex` never fails"). Raised by
  ENC_NEXT alone, and only in states that break `Encoder.Inv`, which no run from reset reaches. Safe (log 20). -/
  | encoderInvariant
deriving DecidableEq, Repr

/-- What has no meaning. -/
inductive Refusal where
  /-- `exec` has no meaning for the operation yet. No arm answers it. Safe. -/
  | notModelled (mnemonic : String)
  /-- `step`: the request's bytes are no operation of the table. Safe (log 2). -/
  | undecodable (e : DecodeError)
  /-- `step`: the operation fails a check of WellFormed, so the host "cannot be asked" for it (R130). Safe
  (log 12). -/
  | illFormed (i : Instr)
deriving DecidableEq, Repr

/-- The decoder after RESET (R24): `rbuf` holds no byte. -/
def Decoder.afterReset : Decoder :=
  { state := .start, rbuf := [], fmt := .hex, ferr := .none, ebyte := 0x00 }

/-- The encoder after RESET (R24): `tbuf` holds no byte. -/
def Encoder.afterReset : Encoder :=
  { tbuf := [], tpos := 0, tact := false, tferr := .none }

/-- The machine right after reset (R24, R190), with nothing asked of it (log 1) and the parameters of log 7. -/
def State.reset : State :=
  { cfg := Config.vectors
    dec := Decoder.afterReset
    enc := Encoder.afterReset
    pending := []
    result := .none
    tx := []
    draws := 0 }

end Sys2Proof.Machine
end

