-- ==== Sys2Proof/Machine/Operands.lean ====
section
/-! DEFINITION. The NibbleCodec (40_nibble_codec.md), the value encoder and decoder (44_command_builder.md R131,
45_response_parser.md R151) and the fields of a payload (30_encoding.md R62). -/

namespace Sys2Proof.Machine

/-- `nibble(b)` (R80). -/
def nibble (b : Byte) : Except Err Nibble :=
  if 0x30 ≤ b ∧ b ≤ 0x39 then .ok ((b - 0x30).setWidth 4)
  else if 0x41 ≤ b ∧ b ≤ 0x46 then .ok ((b - 0x37).setWidth 4)
  else if 0x61 ≤ b ∧ b ≤ 0x66 then .ok ((b - 0x57).setWidth 4)
  else .error ⟨.invalidHexDigit, some b⟩

/-- The upper-case digit of a 4-bit value (R81, 30_encoding.md R55). -/
def hexDigit (v : Nibble) : Byte :=
  if v ≤ 9 then 0x30 + zextNibble v else 0x37 + zextNibble v

/-- `hex(v)` (R81): the error carries the value that is out of range. -/
def hex (v : Byte) : Except Err Byte :=
  if v ≤ 15 then .ok (hexDigit (v.setWidth 4)) else .error ⟨.invalidHexDigit, some v⟩

/-- The two digits of a byte, "high nibble first" (20_memory.md R32). -/
def twoDigits (b : Byte) : List Byte := [hexDigit (highNibble b), hexDigit (lowNibble b)]

/-- `venc(value)` (R131). -/
def venc : Value → List Byte
  | .empty => []
  | .u8 n => [n]
  | .i8 n => leBytes 1 (n % 256).toNat
  | .u16 n => leBytes 2 n.toNat
  | .i16 n => leBytes 2 (n % 65536).toNat
  | .u32 n => leBytes 4 n.toNat
  | .i32 n => leBytes 4 (n % 4294967296).toNat
  | .ascii s => s
  | .other b => b

/-- `guess(v)` (R151): "width alone decides the representation". -/
def guess (v : List Byte) : Value :=
  match v.length with
  | 0 => .empty
  | 1 => .u8 (BitVec.ofNat 8 (memRead v 0 1))
  | 2 => .u16 (BitVec.ofNat 16 (memRead v 0 2))
  | 4 => .u32 (BitVec.ofNat 32 (memRead v 0 4))
  | _ => .other v

/-- The 16-bit field at the front of a payload: an item id or an error code (R62). -/
def payloadCode (p : List Byte) : Code := BitVec.ofNat 16 (memRead p 0 2)

/-- Ping's minor version, binary-coded decimal (45_response_parser.md R147). -/
def bcdMinor (b : Byte) : Byte := zextNibble (lowNibble b) + 10 * zextNibble (highNibble b)

/-- The payload of a frame, `f[1 .. len(f)-1]` (R143). -/
def payload (f : List Byte) : List Byte := (f.drop 1).dropLast

end Sys2Proof.Machine
end

