-- ==== Sys2Proof/Machine/Flags.lean ====
section
/-! DEFINITION. The Checksum unit (41_checksum.md), the status flags (10_state.md R17), the marker counter (R22)
and the numeric codes and output ports (R12, R20, 60_exceptions.md R160). -/

namespace Sys2Proof.Machine

/-- `csum(s)`: the 8-bit wrapping sum of the bytes (R85). -/
def csum (s : List Byte) : Byte := s.foldl (fun a b => a + b) 0x00

/-- `valid(s)`: non-empty and the sum 0x00 or 0x55 (R87). -/
def valid (s : List Byte) : Bool :=
  decide (0 < s.length) && (csum s == 0x00 || csum s == 0x55)

/-- `mkcsum(s)`: the byte that makes the sum 0x55 (R88). -/
def mkcsum (s : List Byte) : Byte := 0x55 - csum s

/-- `done` is "`state = Start` and `rlen > 0`" (R17, 42_frame_decoder.md R102). -/
def Decoder.done (d : Decoder) : Bool := decide (d.state = .start) && decide (0 < d.rbuf.length)

/-- The flag `valid`: "it is a function of the buffer" (R17). -/
def Decoder.valid (d : Decoder) : Bool := Machine.valid d.rbuf

/-- `fault` is "`ferr != None`" (R17). -/
def Decoder.fault (d : Decoder) : Bool := decide (d.ferr ≠ .none)

/-- `rlen` (R11). -/
def Decoder.rlen (d : Decoder) : Nat := d.rbuf.length

/-- `tlen` (R14). -/
def Encoder.tlen (e : Encoder) : Nat := e.tbuf.length

/-- One update of the match counter `mk` (R22). -/
def mkStep (mk : Nat) (c : Byte) : Nat :=
  if marker[mk]? = some c then mk + 1 else if c = 0x0A then 1 else 0

/-- `mk` after the bytes of a block: "at a Start transition `mk` starts from 0" (R22). -/
def mkCounter (buf : List Byte) : Nat := buf.foldl mkStep 0

/-- The numeric encoding of `state` (R12). -/
def Fsm.code : Fsm → BitVec 2
  | .start => 0
  | .lowNibble => 1
  | .highNibble => 2
  | .text => 3

/-- "HEX = 0, TEXT = 1" (R11). -/
def Fmt.code : Fmt → BitVec 1
  | .hex => 0
  | .text => 1

/-- The error kind codes (R160). -/
def ErrKind.code : ErrKind → BitVec 4
  | .none => 0
  | .invalidHexDigit => 1
  | .lengthMismatch => 2
  | .checksumInvalid => 3
  | .unknownResponseId => 4
  | .unknownErrorId => 5
  | .unknownItemId => 6
  | .sliceConversionFailed => 7
  | .invalidFlagsBits => 8
  | .encInvariant => 9

/-- The byte at a place of the encoder's sequence (43_frame_encoder.md R112): `':'`, the id's digit, two digits a
byte, `'\n'`. `none` where the place has no digit, which a loaded frame never has (R83). -/
def Encoder.nextByte (e : Encoder) : Option Byte :=
  if e.tpos = 0 then some 0x3A
  else if e.tpos = 1 then (readByte e.tbuf 0).bind (fun b => (hex b).toOption)
  else if e.tpos < 2 * e.tlen then
    (readByte e.tbuf (e.tpos / 2)).map
      (fun b => if e.tpos % 2 = 0 then hexDigit (highNibble b) else hexDigit (lowNibble b))
  else some 0x0A

/-- `rd_data`: "`rbuf[rd_idx]` when `rd_idx < rlen`; otherwise unspecified" (R20): a free value, log 6. -/
def State.rdData (s : State) (rdIdx : Nat) : Byte :=
  (readByte s.dec.rbuf rdIdx).getD (Config.freeRdData s.draws rdIdx)

/-- `tx_data`: "the byte the next ENC_NEXT yields, defined while `tact` = 1" (R20): otherwise a free value, log 6. -/
def State.txData (s : State) : Byte :=
  if s.enc.tact then s.enc.nextByte.getD (Config.freeTxData s.draws) else Config.freeTxData s.draws

/-- The output ports (R20): "a function of the registered state alone" (R21), `rd_idx` selecting the byte read. -/
def portOut (rdIdx : Nat) (s : State) : PortOut :=
  { state := s.dec.state.code
    done := s.dec.done
    valid := s.dec.valid
    fmt := s.dec.fmt.code
    fault := s.dec.fault
    rlen := s.dec.rlen
    rdData := s.rdData rdIdx
    csum := csum s.dec.rbuf
    ferr := s.dec.ferr.code
    ebyte := s.dec.ebyte
    txData := s.txData
    tact := s.enc.tact
    tferr := s.enc.tferr.code }

end Sys2Proof.Machine
end

