-- ==== Sys2Proof/Machine/Ops.lean ====
section
/-! DEFINITION. The operations the meanings share: the decoder's transitions (42_frame_decoder.md R90 to R101), the
encoder's (43_frame_encoder.md R110 to R114), the builder (44_command_builder.md), the parser
(45_response_parser.md), fault entry and return (60_exceptions.md R165 to R169), and the composites (R104, R105,
R132). -/

namespace Sys2Proof.Machine

/-! ### The state's updates -/

def State.setDec (s : State) (d : Decoder) : State := { s with dec := d }
def State.setEnc (s : State) (e : Encoder) : State := { s with enc := e }
def State.setResult (s : State) (r : Result) : State := { s with result := r }

/-- A byte handed to the transport, after the ones before it (10_state.md R19). -/
def State.emit (s : State) (b : Byte) : State := { s with tx := s.tx ++ [b] }

/-- The host's queue moves on by one request, and the unspecified port values may change (logs 1, 6). -/
def State.fetch (s : State) (rest : List Request) : State :=
  { s with pending := rest, draws := s.draws + 1 }

/-- The result of an event: its error, if it raised one (R165). -/
def Result.ofErr : Option Err → Result
  | Option.none => Result.none
  | Option.some e => Result.err e

/-! ### Fault entry and return -/

/-- DECODER FAULT ENTRY (R165): "`ferr <-` the kind's code, `ebyte <- c` …, and nothing else changes"; the PUSH
itself reports the error. -/
def Decoder.raise (k : ErrKind) (c : Byte) (d : Decoder) : Decoder × Option Err :=
  ({ d with ferr := k, ebyte := c }, some ⟨k, some c⟩)

/-- CLEAR (R100), which is also the DECODER FAULT RETURN (R167); `fmt` keeps its value. -/
def Decoder.clear (d : Decoder) : Decoder :=
  { d with rbuf := [], state := .start, ferr := .none, ebyte := 0x00 }

/-- RESET, decoder part: "as CLEAR, and also `fmt <- HEX`" (R101). -/
def Decoder.reset (d : Decoder) : Decoder := { d.clear with fmt := .hex }

/-- ENCODER FAULT ENTRY (R168): "`tferr <-` the kind's code, `tact <- 0`; `tbuf`, `tlen`, `tpos` keep their
values". -/
def Encoder.raise (err : Err) (e : Encoder) : Encoder × Option Err :=
  ({ e with tferr := err.kind, tact := false }, some err)

/-- RESET, encoder part (R114): no byte of `tbuf` is defined (log 8). -/
def Encoder.reset (_e : Encoder) : Encoder := Encoder.afterReset

/-- RESET: "one event for both agents" (70_reset_and_hazards.md R190). -/
def State.resetBoth (s : State) : State := (s.setDec s.dec.reset).setEnc s.enc.reset

/-! ### PUSH, one definition per rule -/

/-- Start, `':'`: open a hex frame (R91). -/
def Decoder.openHex (d : Decoder) : Decoder :=
  { d with rbuf := appendByte [] 0x00, fmt := .hex, state := .lowNibble }

/-- Start, any other byte, TEXT_EN = 1: open a text block (R92). -/
def Decoder.openText (c : Byte) (d : Decoder) : Decoder :=
  { d with rbuf := appendByte [] c, fmt := .text, state := .text }

/-- Start, any other byte, TEXT_EN = 0: the byte is dropped (R93). -/
def Decoder.dropByte (d : Decoder) : Decoder := { d with rbuf := [], state := .start }

/-- LowNibble, a hex digit: complete the last byte (R94). -/
def Decoder.completeByte (v : Nibble) (d : Decoder) : Decoder :=
  { d with rbuf := orLast d.rbuf v, state := .highNibble }

/-- HighNibble, `'\n'`: the frame is complete (R96). -/
def Decoder.finish (d : Decoder) : Decoder := { d with state := .start }

/-- HighNibble, a hex digit with room: start a new byte (R97). -/
def Decoder.startByte (v : Nibble) (d : Decoder) : Decoder :=
  { d with rbuf := appendByte d.rbuf (shiftedNibble v), state := .lowNibble }

/-- Text, with room: store the byte; it is the checksum byte if the buffer ended with MARKER before it (R98). -/
def Decoder.storeText (c : Byte) (d : Decoder) : Decoder :=
  { d with rbuf := appendByte d.rbuf c, state := if endsWith d.rbuf marker then .start else .text }

/-- `rlen = BUF_CAP` (R97, R98): never, with `unbounded`. -/
def Decoder.full (cfg : Config) (d : Decoder) : Bool := decide (cfg.bufCap = some d.rlen)

/-- Start (R91 to R93). -/
def Decoder.pushStart (cfg : Config) (c : Byte) (d : Decoder) : Decoder × Option Err :=
  if c = 0x3A then (d.openHex, none)
  else if cfg.textEn then (d.openText c, none)
  else (d.dropByte, none)

/-- LowNibble (R94, R95). -/
def Decoder.pushLow (c : Byte) (d : Decoder) : Decoder × Option Err :=
  match nibble c with
  | .ok v => (d.completeByte v, none)
  | .error _ => d.raise .invalidHexDigit c

/-- HighNibble (R96, R97): the digit is converted before the room is looked at (60_exceptions.md R172). -/
def Decoder.pushHigh (cfg : Config) (c : Byte) (d : Decoder) : Decoder × Option Err :=
  if c = 0x0A then (d.finish, none)
  else match nibble c with
    | .error _ => d.raise .invalidHexDigit c
    | .ok v => if d.full cfg then d.raise .lengthMismatch c else (d.startByte v, none)

/-- Text (R98). -/
def Decoder.pushText (cfg : Config) (c : Byte) (d : Decoder) : Decoder × Option Err :=
  if d.full cfg then d.raise .lengthMismatch c else (d.storeText c, none)

/-- PUSH(c) (R90): "dispatches first on `ferr`, then on `state`, then on `c`"; while faulted "no state change; c is
dropped" (R99, log 9). -/
def Decoder.push (cfg : Config) (c : Byte) (d : Decoder) : Decoder × Option Err :=
  if d.ferr ≠ .none then (d, none)
  else match d.state with
    | .start => d.pushStart cfg c
    | .lowNibble => d.pushLow c
    | .highNibble => d.pushHigh cfg c
    | .text => d.pushText cfg c

/-- `push_slice(s)` (R104): "stop after the byte that makes `done` = 1, or after the byte that raises an error, or at
the end of `s`"; the decoder, the number of bytes consumed, the error. -/
def Decoder.pushSlice (cfg : Config) : List Byte → Decoder → Decoder × Nat × Option Err
  | [], d => (d, 0, none)
  | c :: cs, d =>
    if (d.push cfg c).2.isSome || (d.push cfg c).1.done then ((d.push cfg c).1, 1, (d.push cfg c).2)
    else
      let r := Decoder.pushSlice cfg cs (d.push cfg c).1
      (r.1, r.2.1 + 1, r.2.2)

/-- The result of `decode(w)` from what `push_slice(w)` left (R105). -/
def wireResult (w : List Byte) (r : Decoder × Nat × Option Err) : WireResult :=
  match r.2.2 with
  | some e => .err e
  | none => if r.1.done && decide (r.2.1 = w.length) then .ok r.1.rbuf else .incomplete

/-! ### The encoder -/

/-- `len(f) > BUF_CAP` (R111): never, with `unbounded`. -/
def overCapacity (cfg : Config) (n : Nat) : Bool :=
  match cfg.bufCap with
  | none => false
  | some cap => decide (cap < n)

/-- ENC_LOAD's two checks, the length first (R111, R172). EncInvariant carries the id byte (R160). -/
def loadError (cfg : Config) (f : List Byte) : Option Err :=
  match f with
  | [] => some ⟨.lengthMismatch, none⟩
  | id :: _ =>
    if overCapacity cfg f.length then some ⟨.lengthMismatch, none⟩
    else if 0x0F < id then some ⟨.encInvariant, some id⟩
    else none

/-- ENC_LOAD(f) (R111): a copy of the frame, from its first place. -/
def Encoder.load (cfg : Config) (f : List Byte) (e : Encoder) : Encoder × Option Err :=
  match loadError cfg f with
  | some err => e.raise err
  | none => ({ tbuf := f, tpos := 0, tact := true, tferr := .none }, none)

/-- ENC_NEXT's move: "`tpos <- p + 1`", and "if `p` = 2*`tlen`: `tact <- 0`" (R112). -/
def Encoder.advance (e : Encoder) : Encoder :=
  { e with tpos := e.tpos + 1, tact := if e.tpos = 2 * e.tlen then false else e.tact }

/-- `encode(f)` for a frame that loads (R113). -/
def spell : List Byte → List Byte
  | [] => [0x3A, 0x0A]
  | id :: rest => 0x3A :: hexDigit (lowNibble id) :: (rest.flatMap twoDigits ++ [0x0A])

/-- `encode(f)` (R113): "else the error of rule R111". -/
def encodeFrame (cfg : Config) (f : List Byte) : Except Err (List Byte) :=
  match loadError cfg f with
  | some e => .error e
  | none => .ok (spell f)

/-! ### The builder -/

/-- The command type codes (30_encoding.md R59). -/
def Command.code : Command → Byte
  | .boot => 0x00
  | .ping => 0x01
  | .version => 0x03
  | .product => 0x04
  | .restart => 0x06
  | .get _ _ => 0x07
  | .set _ _ _ => 0x08
  | .async _ _ _ => 0x0A

/-- `[item[7:0], item[15:8], flagbyte(flags)]` (44_command_builder.md R126). -/
def itemFlagsBytes (item : Code) (flags : Flags) : List Byte := leBytes 2 item.toNat ++ [flagbyte flags]

/-- The operands after the code (R121 to R128). -/
def Command.operands : Command → List Byte
  | .boot => []
  | .ping => []
  | .version => []
  | .product => []
  | .restart => []
  | .get item flags => itemFlagsBytes item flags
  | .set item flags value => itemFlagsBytes item flags ++ venc value
  | .async item flags value => itemFlagsBytes item flags ++ venc value

/-- `s ++ [mkcsum(s)]` (R120). -/
def sealed (s : List Byte) : List Byte := s ++ [mkcsum s]

/-- `build(cmd)` (R120). -/
def build (cmd : Command) : List Byte := sealed (Command.code cmd :: Command.operands cmd)

/-! ### The parser -/

/-- `Err(K)` of a kind that records no value (R160). -/
def failed {α : Type} (k : ErrKind) : Except Err α := .error ⟨k, none⟩

/-- Error (R146). -/
def parseError (cfg : Config) (p : List Byte) : Except Err Response :=
  if p.length < 2 then failed .sliceConversionFailed
  else if cfg.errorIds.contains (payloadCode p) then .ok (.error (payloadCode p))
  else failed .unknownErrorId

/-- Ping (R147): the flags are "the raw 4-bit number `p[1] >> 4` in a byte" (92_eei_decisions.md D22). -/
def parsePing : List Byte → Except Err Response
  | a :: b :: _ => .ok (.ping (zextNibble (highNibble b)) (lowNibble b) (bcdMinor a))
  | _ => failed .sliceConversionFailed

/-- Get, Set, Async (R148 to R150): the item's length, the item, the flags' length, the flags, then the value. -/
def parseUpdate (cfg : Config) (origin : Origin) (p : List Byte) : Except Err Response :=
  if p.length < 2 then failed .sliceConversionFailed
  else if cfg.itemIds.contains (payloadCode p) then
    match readByte p 2 with
    | none => failed .sliceConversionFailed
    | some f =>
      if reservedFlagBits f then failed .invalidFlagsBits
      else .ok (.update origin (payloadCode p) (flagsOfByte f) (guess (p.drop 3)))
  else failed .unknownItemId

/-- The dispatch of a valid frame on byte 0 (R142). -/
def parsePayload (cfg : Config) (id : Byte) (p : List Byte) : Except Err Response :=
  match id.toNat with
  | 0x01 => .ok (.done (guess p))
  | 0x03 => .ok (.unknown (guess p))
  | 0x04 => parseError cfg p
  | 0x05 => parsePing p
  | 0x07 => parseUpdate cfg .get p
  | 0x08 => parseUpdate cfg .set p
  | 0x0A => parseUpdate cfg .async p
  | _ => failed .unknownResponseId

/-- `parse(f)` (R140): validity first, then the code, then the payload. -/
def parse (cfg : Config) (f : List Byte) : Except Err Response :=
  if valid f then
    match f with
    | [] => failed .checksumInvalid
    | id :: _ => parsePayload cfg id (payload f)
  else failed .checksumInvalid

/-- The result of a fallible function, by the result of its success. -/
def Result.ofExcept {α : Type} (ok : α → Result) : Except Err α → Result
  | .ok a => ok a
  | .error e => .err e

/-! ### The events and the functions on the whole machine -/

/-- PUSH(c) on the machine. -/
def State.push (c : Byte) (s : State) : State :=
  let r := s.dec.push s.cfg c
  (s.setDec r.1).setResult (Result.ofErr r.2)

/-- ENC_LOAD(f) on the machine. -/
def State.encLoad (f : List Byte) (s : State) : State :=
  let r := s.enc.load s.cfg f
  (s.setEnc r.1).setResult (Result.ofErr r.2)

/-- `push_slice(s)` on the machine (R104). -/
def State.pushSlice (bytes : List Byte) (s : State) : State :=
  let r := Decoder.pushSlice s.cfg bytes s.dec
  (s.setDec r.1).setResult (.consumed r.2.1 r.2.2)

/-- `decode(w)` on the machine: "RESET, `push_slice(w)`" (R105, log 10). -/
def State.decodeWire (w : List Byte) (s : State) : State :=
  let s0 := s.resetBoth
  let r := Decoder.pushSlice s0.cfg w s0.dec
  (s0.setDec r.1).setResult (.wire (wireResult w r))

/-- A pure function or an observation: "changes no state at all" (R170) and returns its result. -/
def answer (r : Result) (s : State) : Host.Outcome State Fault Refusal := .next (s.setResult r)

/-- PUSH(c) as an outcome: accepted in every state (R90, R206). -/
def pushEvent (c : Byte) (s : State) : Host.Outcome State Fault Refusal := .next (s.push c)

/-- `build(cmd)` as an outcome. -/
def buildEvent (cmd : Command) (s : State) : Host.Outcome State Fault Refusal := answer (.bytes (build cmd)) s

/-- `parse(f)` as an outcome. -/
def parseEvent (f : List Byte) (s : State) : Host.Outcome State Fault Refusal :=
  answer (Result.ofExcept .response (parse s.cfg f)) s

end Sys2Proof.Machine
end

