-- ==== Sys2Proof/Machine/Cmd.lean ====
section
/-! DEFINITION. The CMD rows: the frame of one command (44_command_builder.md R121 to R128, log 11). -/

namespace Sys2Proof.Machine

/-- CMD.Boot (R121). -/
def execCmdBoot (s : State) : Host.Outcome State Fault Refusal := buildEvent .boot s

/-- CMD.Ping (R122). -/
def execCmdPing (s : State) : Host.Outcome State Fault Refusal := buildEvent .ping s

/-- CMD.Version (R123). -/
def execCmdVersion (s : State) : Host.Outcome State Fault Refusal := buildEvent .version s

/-- CMD.Product (R124). -/
def execCmdProduct (s : State) : Host.Outcome State Fault Refusal := buildEvent .product s

/-- CMD.Restart (R125). -/
def execCmdRestart (s : State) : Host.Outcome State Fault Refusal := buildEvent .restart s

/-- CMD.Get (R126). -/
def execCmdGet (item : Code) (flags : Flags) (s : State) : Host.Outcome State Fault Refusal :=
  buildEvent (.get item flags) s

/-- CMD.Set (R127). -/
def execCmdSet (item : Code) (flags : Flags) (value : Value) (s : State) : Host.Outcome State Fault Refusal :=
  buildEvent (.set item flags value) s

/-- CMD.Async (R128). -/
def execCmdAsync (item : Code) (flags : Flags) (value : Value) (s : State) : Host.Outcome State Fault Refusal :=
  buildEvent (.async item flags value) s

end Sys2Proof.Machine
end

