-- ==== Sys2Proof/Machine/Event.lean ====
section
/-! DEFINITION. The EVENT rows: RESET, CLEAR, PUSH, ENC_LOAD, ENC_NEXT (30_encoding.md R76). -/

namespace Sys2Proof.Machine

/-- RESET (70_reset_and_hazards.md R190, 42_frame_decoder.md R101, 43_frame_encoder.md R114): both agents. -/
def execReset (s : State) : Host.Outcome State Fault Refusal := .next (s.resetBoth.setResult .none)

/-- CLEAR (R100, 60_exceptions.md R167): legal in every state. -/
def execClear (s : State) : Host.Outcome State Fault Refusal := .next ((s.setDec s.dec.clear).setResult .none)

/-- PUSH(c) (R90). -/
def execPush (c : Byte) (s : State) : Host.Outcome State Fault Refusal := pushEvent c s

/-- ENC_LOAD(f) (R111). -/
def execEncLoad (f : List Byte) (s : State) : Host.Outcome State Fault Refusal := .next (s.encLoad f)

/-- ENC_NEXT (R112): "if `tact` = 0: return `none`", else the next byte, handed to the transport. The fault is the
internal invariant violation of log 20. -/
def execEncNext (s : State) : Host.Outcome State Fault Refusal :=
  if s.enc.tact then
    match s.enc.nextByte with
    | some b => .next (((s.setEnc s.enc.advance).emit b).setResult (.byte b))
    | none => .fault .encoderInvariant
  else .next (s.setResult .none)

end Sys2Proof.Machine
end

