-- ==== Sys2Proof/Machine/Func.lean ====
section
/-! DEFINITION. The FUNC rows: the pure functions, the composites and the observations (00_scope.md R8). -/

namespace Sys2Proof.Machine

/-- `nibble(b)` (R80). -/
def execNibble (b : Byte) (s : State) : Host.Outcome State Fault Refusal :=
  answer (Result.ofExcept .nibble (nibble b)) s

/-- `hex(v)` (R81). -/
def execHex (v : Byte) (s : State) : Host.Outcome State Fault Refusal :=
  answer (Result.ofExcept .byte (hex v)) s

/-- `csum(s)` (R85). -/
def execCsum (bytes : List Byte) (s : State) : Host.Outcome State Fault Refusal :=
  answer (.byte (csum bytes)) s

/-- `valid(s)` (R87). -/
def execValid (bytes : List Byte) (s : State) : Host.Outcome State Fault Refusal :=
  answer (.bool (valid bytes)) s

/-- `mkcsum(s)` (R88). -/
def execMkcsum (bytes : List Byte) (s : State) : Host.Outcome State Fault Refusal :=
  answer (.byte (mkcsum bytes)) s

/-- `encode(f)` (R113, log 16). -/
def execEncode (f : List Byte) (s : State) : Host.Outcome State Fault Refusal :=
  answer (Result.ofExcept .bytes (encodeFrame s.cfg f)) s

/-- `build(cmd)` (R120). -/
def execBuild (cmd : Command) (s : State) : Host.Outcome State Fault Refusal :=
  buildEvent cmd s

/-- `flagbyte(flags)` (R129). -/
def execFlagbyte (flags : Flags) (s : State) : Host.Outcome State Fault Refusal :=
  answer (.byte (flagbyte flags)) s

/-- `venc(value)` (R131). -/
def execVenc (value : Value) (s : State) : Host.Outcome State Fault Refusal :=
  answer (.bytes (venc value)) s

/-- SEND(cmd) = ENC_LOAD(`build(cmd)`) (R132). -/
def execSend (cmd : Command) (s : State) : Host.Outcome State Fault Refusal :=
  .next (s.encLoad (build cmd))

/-- `parse(f)` (R140). -/
def execParse (f : List Byte) (s : State) : Host.Outcome State Fault Refusal :=
  parseEvent f s

/-- `guess(v)` (R151). -/
def execGuess (bytes : List Byte) (s : State) : Host.Outcome State Fault Refusal :=
  answer (.value (guess bytes)) s

/-- `push_slice(s)` (R104). -/
def execPushSlice (bytes : List Byte) (s : State) : Host.Outcome State Fault Refusal :=
  .next (s.pushSlice bytes)

/-- `decode(w)` (R105). -/
def execDecode (w : List Byte) (s : State) : Host.Outcome State Fault Refusal :=
  .next (s.decodeWire w)

/-- The observation `done` (R102). -/
def execDone (s : State) : Host.Outcome State Fault Refusal :=
  answer (.bool s.dec.done) s

/-- The observation `frame` (R103). -/
def execFrame (s : State) : Host.Outcome State Fault Refusal :=
  answer (.bytes s.dec.rbuf) s

end Sys2Proof.Machine
end

