-- ==== Sys2Proof/Machine/Rsp.lean ====
section
/-! DEFINITION. The RSP rows: the parsing of a frame whose byte 0 is the row's code, `rest` being its further
bytes, the checksum byte included (45_response_parser.md R142 to R150, log 11). -/

namespace Sys2Proof.Machine

/-- RSP.Done (R144). -/
def execRspDone (rest : List Byte) (s : State) : Host.Outcome State Fault Refusal := parseEvent (0x01 :: rest) s

/-- RSP.Unknown (R145). -/
def execRspUnknown (rest : List Byte) (s : State) : Host.Outcome State Fault Refusal := parseEvent (0x03 :: rest) s

/-- RSP.Error (R146). -/
def execRspError (rest : List Byte) (s : State) : Host.Outcome State Fault Refusal := parseEvent (0x04 :: rest) s

/-- RSP.Ping (R147). -/
def execRspPing (rest : List Byte) (s : State) : Host.Outcome State Fault Refusal := parseEvent (0x05 :: rest) s

/-- RSP.Get (R148). -/
def execRspGet (rest : List Byte) (s : State) : Host.Outcome State Fault Refusal := parseEvent (0x07 :: rest) s

/-- RSP.Set (R149). -/
def execRspSet (rest : List Byte) (s : State) : Host.Outcome State Fault Refusal := parseEvent (0x08 :: rest) s

/-- RSP.Async (R150). -/
def execRspAsync (rest : List Byte) (s : State) : Host.Outcome State Fault Refusal := parseEvent (0x0A :: rest) s

/-- RSP.unassigned (R142, 30_encoding.md R66). -/
def execRspUnassigned (code : Byte) (rest : List Byte) (s : State) : Host.Outcome State Fault Refusal :=
  parseEvent (code :: rest) s

end Sys2Proof.Machine
end

