-- ==== Sys2Proof/Machine/RxByte.lean ====
section
/-! DEFINITION. The RXBYTE rows: PUSH of one byte of a class (30_encoding.md R54, R55; 42_frame_decoder.md R90). -/

namespace Sys2Proof.Machine

/-- PUSH.COLON (R91; R95, R97, R98, R99). -/
def execPushColon (s : State) : Host.Outcome State Fault Refusal := pushEvent 0x3A s

/-- PUSH.LF (R96; R92, R93, R95, R98, R99). -/
def execPushLf (s : State) : Host.Outcome State Fault Refusal := pushEvent 0x0A s

/-- PUSH.DIGIT_0, nibble value 0 (R94; R97). -/
def execPushDigit0 (s : State) : Host.Outcome State Fault Refusal := pushEvent 0x30 s

/-- PUSH.DIGIT_1, nibble value 1 (R94; R97). -/
def execPushDigit1 (s : State) : Host.Outcome State Fault Refusal := pushEvent 0x31 s

/-- PUSH.DIGIT_2, nibble value 2 (R94; R97). -/
def execPushDigit2 (s : State) : Host.Outcome State Fault Refusal := pushEvent 0x32 s

/-- PUSH.DIGIT_3, nibble value 3 (R94; R97). -/
def execPushDigit3 (s : State) : Host.Outcome State Fault Refusal := pushEvent 0x33 s

/-- PUSH.DIGIT_4, nibble value 4 (R94; R97). -/
def execPushDigit4 (s : State) : Host.Outcome State Fault Refusal := pushEvent 0x34 s

/-- PUSH.DIGIT_5, nibble value 5 (R94; R97). -/
def execPushDigit5 (s : State) : Host.Outcome State Fault Refusal := pushEvent 0x35 s

/-- PUSH.DIGIT_6, nibble value 6 (R94; R97). -/
def execPushDigit6 (s : State) : Host.Outcome State Fault Refusal := pushEvent 0x36 s

/-- PUSH.DIGIT_7, nibble value 7 (R94; R97). -/
def execPushDigit7 (s : State) : Host.Outcome State Fault Refusal := pushEvent 0x37 s

/-- PUSH.DIGIT_8, nibble value 8 (R94; R97). -/
def execPushDigit8 (s : State) : Host.Outcome State Fault Refusal := pushEvent 0x38 s

/-- PUSH.DIGIT_9, nibble value 9 (R94; R97). -/
def execPushDigit9 (s : State) : Host.Outcome State Fault Refusal := pushEvent 0x39 s

/-- PUSH.DIGIT_A, nibble value 10 (R94; R97). -/
def execPushDigitA (s : State) : Host.Outcome State Fault Refusal := pushEvent 0x41 s

/-- PUSH.DIGIT_B, nibble value 11 (R94; R97). -/
def execPushDigitB (s : State) : Host.Outcome State Fault Refusal := pushEvent 0x42 s

/-- PUSH.DIGIT_C, nibble value 12 (R94; R97). -/
def execPushDigitC (s : State) : Host.Outcome State Fault Refusal := pushEvent 0x43 s

/-- PUSH.DIGIT_D, nibble value 13 (R94; R97). -/
def execPushDigitD (s : State) : Host.Outcome State Fault Refusal := pushEvent 0x44 s

/-- PUSH.DIGIT_E, nibble value 14 (R94; R97). -/
def execPushDigitE (s : State) : Host.Outcome State Fault Refusal := pushEvent 0x45 s

/-- PUSH.DIGIT_F, nibble value 15 (R94; R97). -/
def execPushDigitF (s : State) : Host.Outcome State Fault Refusal := pushEvent 0x46 s

/-- PUSH.DIGIT_lc_a, nibble value 10 (R94; R97). -/
def execPushDigitLcA (s : State) : Host.Outcome State Fault Refusal := pushEvent 0x61 s

/-- PUSH.DIGIT_lc_b, nibble value 11 (R94; R97). -/
def execPushDigitLcB (s : State) : Host.Outcome State Fault Refusal := pushEvent 0x62 s

/-- PUSH.DIGIT_lc_c, nibble value 12 (R94; R97). -/
def execPushDigitLcC (s : State) : Host.Outcome State Fault Refusal := pushEvent 0x63 s

/-- PUSH.DIGIT_lc_d, nibble value 13 (R94; R97). -/
def execPushDigitLcD (s : State) : Host.Outcome State Fault Refusal := pushEvent 0x64 s

/-- PUSH.DIGIT_lc_e, nibble value 14 (R94; R97). -/
def execPushDigitLcE (s : State) : Host.Outcome State Fault Refusal := pushEvent 0x65 s

/-- PUSH.DIGIT_lc_f, nibble value 15 (R94; R97). -/
def execPushDigitLcF (s : State) : Host.Outcome State Fault Refusal := pushEvent 0x66 s

/-- PUSH.OTHER (R92; R93, R95, R97, R98, R99). -/
def execPushOther (c : Byte) (s : State) : Host.Outcome State Fault Refusal := pushEvent c s

end Sys2Proof.Machine
end

