-- ==== Sys2Proof/Machine/Dispatch.lean ====
section
/-! DEFINITION. One arm per operation of the table. -/

namespace Sys2Proof.Machine

def exec (i : Instr) (s : State) : Host.Outcome State Fault Refusal :=
  match i with
  | .pushColon => Sys2Proof.Machine.execPushColon s
  | .pushLf => Sys2Proof.Machine.execPushLf s
  | .pushDigit0 => Sys2Proof.Machine.execPushDigit0 s
  | .pushDigit1 => Sys2Proof.Machine.execPushDigit1 s
  | .pushDigit2 => Sys2Proof.Machine.execPushDigit2 s
  | .pushDigit3 => Sys2Proof.Machine.execPushDigit3 s
  | .pushDigit4 => Sys2Proof.Machine.execPushDigit4 s
  | .pushDigit5 => Sys2Proof.Machine.execPushDigit5 s
  | .pushDigit6 => Sys2Proof.Machine.execPushDigit6 s
  | .pushDigit7 => Sys2Proof.Machine.execPushDigit7 s
  | .pushDigit8 => Sys2Proof.Machine.execPushDigit8 s
  | .pushDigit9 => Sys2Proof.Machine.execPushDigit9 s
  | .pushDigitA => Sys2Proof.Machine.execPushDigitA s
  | .pushDigitB => Sys2Proof.Machine.execPushDigitB s
  | .pushDigitC => Sys2Proof.Machine.execPushDigitC s
  | .pushDigitD => Sys2Proof.Machine.execPushDigitD s
  | .pushDigitE => Sys2Proof.Machine.execPushDigitE s
  | .pushDigitF => Sys2Proof.Machine.execPushDigitF s
  | .pushDigitLcA => Sys2Proof.Machine.execPushDigitLcA s
  | .pushDigitLcB => Sys2Proof.Machine.execPushDigitLcB s
  | .pushDigitLcC => Sys2Proof.Machine.execPushDigitLcC s
  | .pushDigitLcD => Sys2Proof.Machine.execPushDigitLcD s
  | .pushDigitLcE => Sys2Proof.Machine.execPushDigitLcE s
  | .pushDigitLcF => Sys2Proof.Machine.execPushDigitLcF s
  | .pushOther c => Sys2Proof.Machine.execPushOther c s
  | .cmdBoot => Sys2Proof.Machine.execCmdBoot s
  | .cmdPing => Sys2Proof.Machine.execCmdPing s
  | .cmdVersion => Sys2Proof.Machine.execCmdVersion s
  | .cmdProduct => Sys2Proof.Machine.execCmdProduct s
  | .cmdRestart => Sys2Proof.Machine.execCmdRestart s
  | .cmdGet item flags => Sys2Proof.Machine.execCmdGet item flags s
  | .cmdSet item flags value => Sys2Proof.Machine.execCmdSet item flags value s
  | .cmdAsync item flags value => Sys2Proof.Machine.execCmdAsync item flags value s
  | .rspDone rest => Sys2Proof.Machine.execRspDone rest s
  | .rspUnknown rest => Sys2Proof.Machine.execRspUnknown rest s
  | .rspError rest => Sys2Proof.Machine.execRspError rest s
  | .rspPing rest => Sys2Proof.Machine.execRspPing rest s
  | .rspGet rest => Sys2Proof.Machine.execRspGet rest s
  | .rspSet rest => Sys2Proof.Machine.execRspSet rest s
  | .rspAsync rest => Sys2Proof.Machine.execRspAsync rest s
  | .rspUnassigned code rest => Sys2Proof.Machine.execRspUnassigned code rest s
  | .reset => Sys2Proof.Machine.execReset s
  | .clear => Sys2Proof.Machine.execClear s
  | .push c => Sys2Proof.Machine.execPush c s
  | .encLoad f => Sys2Proof.Machine.execEncLoad f s
  | .encNext => Sys2Proof.Machine.execEncNext s
  | .nibble b => Sys2Proof.Machine.execNibble b s
  | .hex v => Sys2Proof.Machine.execHex v s
  | .csum bytes => Sys2Proof.Machine.execCsum bytes s
  | .valid bytes => Sys2Proof.Machine.execValid bytes s
  | .mkcsum bytes => Sys2Proof.Machine.execMkcsum bytes s
  | .encode f => Sys2Proof.Machine.execEncode f s
  | .build cmd => Sys2Proof.Machine.execBuild cmd s
  | .flagbyte flags => Sys2Proof.Machine.execFlagbyte flags s
  | .venc value => Sys2Proof.Machine.execVenc value s
  | .send cmd => Sys2Proof.Machine.execSend cmd s
  | .parse f => Sys2Proof.Machine.execParse f s
  | .guess bytes => Sys2Proof.Machine.execGuess bytes s
  | .pushSlice bytes => Sys2Proof.Machine.execPushSlice bytes s
  | .decode w => Sys2Proof.Machine.execDecode w s
  | .done => Sys2Proof.Machine.execDone s
  | .frame => Sys2Proof.Machine.execFrame s

end Sys2Proof.Machine
end

