-- ==== Sys2Proof/Machine/Ports.lean ====
section
/-! DEFINITION. How events appear on the wires (10_state.md R20, R21; 30_encoding.md R76; 60_exceptions.md R173),
and what a request is decoded to. -/

namespace Sys2Proof.Machine

/-- The frame presented on `enc_frame`, `enc_len`: "byte `i` in bits `8i+7 : 8i`" (R20). -/
def PortIn.frame (p : PortIn) : List Byte :=
  (List.range p.encLen).map (fun i => BitVec.ofNat 8 (p.encFrame >>> (8 * i)))

/-- "the decoder takes RESET if `rst`, else CLEAR if `clr`, else PUSH if `rx_valid`, else nothing" (R21). -/
def PortIn.decoderEvent (p : PortIn) : Option Instr :=
  if p.rst then some .reset
  else if p.clr then some .clear
  else if p.rxValid then some (.push p.rxData)
  else none

/-- "the encoder takes RESET if `rst`, else ENC_LOAD if `enc_load`, else ENC_NEXT if `enc_next`, else nothing"
(R21); RESET is one event for both agents (R190), taken as the decoder's. -/
def PortIn.encoderEvent (p : PortIn) : Option Instr :=
  if p.rst then none
  else if p.encLoad then some (.encLoad p.frame)
  else if p.encNext then some .encNext
  else none

/-- One event of each agent on one edge. They share no state, so "the relative order … cannot be observed"
(20_memory.md R42); the decoder's is written first, and both results are kept (log 14). -/
def execBoth (i j : Instr) (s : State) : Host.Outcome State Fault Refusal :=
  match exec i s with
  | .next s1 =>
    match exec j s1 with
    | .next s2 => .next (s2.setResult (.both s1.result s2.result))
    | .fault f => .fault f
    | .refused r => .refused r
  | .fault f => .fault f
  | .refused r => .refused r

/-- One rising edge of `clk` (R21): "At most one decoder event and at most one encoder event are taken". -/
def execEdge (p : PortIn) (s : State) : Host.Outcome State Fault Refusal :=
  match p.decoderEvent, p.encoderEvent with
  | some i, some j => execBoth i j s
  | some i, none => exec i s
  | none, some j => exec j s
  | none, none => .next (s.setResult .none)

/-- The operation a request's bytes ask for, if they are one of the table that passes WellFormed (log 12). -/
def fetchInstr (cfg : Config) (bytes : List Byte) : Except Refusal Instr :=
  match decode bytes with
  | .error e => .error (.undecodable e)
  | .ok i => if i.wellFormed cfg then .ok i else .error (.illFormed i)

/-- One operation asked for by its bytes. -/
def execOp (bytes : List Byte) (s : State) : Host.Outcome State Fault Refusal :=
  match fetchInstr s.cfg bytes with
  | .ok i => exec i s
  | .error r => .refused r

/-- One request of the host. -/
def execRequest (r : Request) (s : State) : Host.Outcome State Fault Refusal :=
  match r with
  | .op bytes => execOp bytes s
  | .edge p => execEdge p s

/-- The request a table word of `nbits` bits makes: the bare 8-bit word (log 3). A row without bits has no word and
asks for nothing. -/
def wordRequest (nbits w : Nat) : Request :=
  .op (if nbits = 0 then [] else [BitVec.ofNat 8 w])

end Sys2Proof.Machine
end

