-- ==== Sys2Proof/Machine/Step.lean ====
section
/-! DEFINITION. One step: the host's next request, taken whole (20_memory.md R38, R42). With nothing asked for,
"between two events nothing changes" (00_scope.md R8). -/

namespace Sys2Proof.Machine

def step (s : State) : Host.Outcome State Fault Refusal :=
  match s.pending with
  | [] => .next s
  | r :: rest => execRequest r (s.fetch rest)

/-- The state whose next step runs a table word: the word's request, before the requests already waiting (log 1). -/
def State.withFetchWord (s : State) (nbits w : Nat) : State :=
  { s with pending := wordRequest nbits w :: s.pending }

end Sys2Proof.Machine
end

