-- ==== Sys2Proof/Safety.lean ====
section
/-! DEFINITION. What a good state and a safe run are: the invariants of 10_state.md R13 for the decoder, their
counterparts for the encoder (R14, 40_nibble_codec.md R83), and a run that never stops. -/

namespace Sys2Proof.Machine

/-- R13, items 1 to 6. -/
structure Decoder.Inv (cfg : Config) (d : Decoder) : Prop where
  /-- Item 1. -/
  low : d.state = .lowNibble → d.fmt = .hex ∧ ∃ b, d.rbuf.getLast? = some b ∧ lowNibble b = 0
  /-- Item 2. -/
  high : d.state = .highNibble → d.fmt = .hex ∧ 1 ≤ d.rlen
  /-- Item 3. -/
  text : d.state = .text → d.fmt = .text ∧ cfg.textEn = true ∧ ∃ b, readByte d.rbuf 0 = some b ∧ b ≠ 0x3A
  /-- Item 4. -/
  hexId : d.fmt = .hex → ∀ b, readByte d.rbuf 0 = some b → b ≤ 0x0F
  /-- Item 5. -/
  faulted : d.ferr ≠ .none → d.state ≠ .start
  /-- Item 6. -/
  fits : ∀ cap, cfg.bufCap = some cap → d.rlen ≤ cap
  /-- The kinds a PUSH raises (60_exceptions.md R160). -/
  kinds : d.ferr = .none ∨ d.ferr = .invalidHexDigit ∨ d.ferr = .lengthMismatch
  /-- `ebyte` is 0x00 with no fault (R24, R100, R165). -/
  noByte : d.ferr = .none → d.ebyte = 0x00

/-- The encoder's counterpart: the ranges of R14, and why ENC_NEXT's `hex` never fails (R83). -/
structure Encoder.Inv (cfg : Config) (e : Encoder) : Prop where
  /-- "`tpos` … 0 .. 2*tlen+1" (R14). -/
  place : e.tpos ≤ 2 * e.tlen + 1
  /-- A live sequence is of a frame that passed ENC_LOAD's checks, and is not exhausted. -/
  live : e.tact = true → e.tpos ≤ 2 * e.tlen ∧ ∃ b, readByte e.tbuf 0 = some b ∧ b ≤ 0x0F
  /-- "0 .. BUF_CAP" (R14). -/
  fits : ∀ cap, cfg.bufCap = some cap → e.tlen ≤ cap
  /-- A fault leaves the encoder idle (60_exceptions.md R168). -/
  faulted : e.tferr ≠ .none → e.tact = false
  /-- The kinds an ENC_LOAD raises (R160). -/
  kinds : e.tferr = .none ∨ e.tferr = .lengthMismatch ∨ e.tferr = .encInvariant

/-- The invariant of the machine. -/
structure State.Inv (s : State) : Prop where
  cfg : s.cfg.wf = true
  dec : s.dec.Inv s.cfg
  enc : s.enc.Inv s.cfg

/-- A run of `k` steps that ends in a state: no step of it faults or is refused. -/
def SafeRun (k : Nat) (s t : State) : Prop := Sys2Proof.core.run k s = .next t

end Sys2Proof.Machine
end

