-- ==== Sys2Proof/Certificates/Slice0/Obligations.lean ====
section
/-! DEFINITION. The statements for the provers.

`Sys2Proof.Claims` holds the spec's own tables and formulas, written out a second time and not by the model's
functions, so that a statement does not repeat the definition it is about. The statements are written as equations
of outcomes: "exec i s = .next { s with … }" says that the operation completes, what it writes, and that every
other field of the state is unchanged. -/

open Sys2Proof Sys2Proof.Machine

namespace Sys2Proof.Claims

/-- The digit table of 30_encoding.md R55: the 22 codes and their values. -/
def digitTable : List (Byte × Nibble) :=
  [(0x30, 0), (0x31, 1), (0x32, 2), (0x33, 3), (0x34, 4), (0x35, 5), (0x36, 6), (0x37, 7), (0x38, 8), (0x39, 9),
   (0x41, 10), (0x42, 11), (0x43, 12), (0x44, 13), (0x45, 14), (0x46, 15),
   (0x61, 10), (0x62, 11), (0x63, 12), (0x64, 13), (0x65, 14), (0x66, 15)]

/-- The value of a digit, by R55's table. -/
def digitValue (c : Byte) : Option Nibble := digitTable.lookup c

/-- The upper-case codes of R55's table, by value. -/
def upperCodes : List Byte :=
  [0x30, 0x31, 0x32, 0x33, 0x34, 0x35, 0x36, 0x37, 0x38, 0x39, 0x41, 0x42, 0x43, 0x44, 0x45, 0x46]

/-- The upper-case code of a value. -/
def upperCode (v : Nat) : Byte := upperCodes.getD v 0

/-- The RXBYTE rows of spec/opcode_table.json with a full mask (R54, R55): operation and byte. -/
def classRows : List (Instr × Byte) :=
  [(.pushColon, 0x3A), (.pushLf, 0x0A), (.pushDigit0, 0x30), (.pushDigit1, 0x31), (.pushDigit2, 0x32),
   (.pushDigit3, 0x33), (.pushDigit4, 0x34), (.pushDigit5, 0x35), (.pushDigit6, 0x36), (.pushDigit7, 0x37),
   (.pushDigit8, 0x38), (.pushDigit9, 0x39), (.pushDigitA, 0x41), (.pushDigitB, 0x42), (.pushDigitC, 0x43),
   (.pushDigitD, 0x44), (.pushDigitE, 0x45), (.pushDigitF, 0x46), (.pushDigitLcA, 0x61), (.pushDigitLcB, 0x62),
   (.pushDigitLcC, 0x63), (.pushDigitLcD, 0x64), (.pushDigitLcE, 0x65), (.pushDigitLcF, 0x66)]

/-- The operations that are PUSH(c): the event itself, c's class row, or OTHER with c (R54; which bytes are OTHER's is
`ByteClassRowsArePush`). -/
def IsPush (i : Instr) (c : Byte) : Prop :=
  i = .push c ∨ i = .pushOther c ∨ (i, c) ∈ classRows

/-- MARKER (R52). -/
def markerBytes : List Byte := [0x0A, 0x43, 0x68, 0x65, 0x63, 0x6B, 0x73, 0x75, 0x6D, 0x09]

/-- `ends_with(s, MARKER)` (00_scope.md R7). -/
def EndsWithMarker (s : List Byte) : Prop := ∃ p, s = p ++ markerBytes

/-- The 8-bit wrap-around sum of the bytes (41_checksum.md R85), as a number. -/
def sumOf (s : List Byte) : Nat := (s.map BitVec.toNat).sum % 256

/-- "the buffer is non-empty and its checksum is in {0x00, 0x55}" (R87). -/
def Acceptable (f : List Byte) : Prop := f ≠ [] ∧ (sumOf f = 0x00 ∨ sumOf f = 0x55)

/-- `n` bytes fit the buffer: `BUF_CAP` is unbounded or at least `n`. -/
def Fits (s : State) (n : Nat) : Prop := ∀ cap, s.cfg.bufCap = some cap → n ≤ cap

/-- The error a kind makes when R160 records no value with it. -/
def plain (k : ErrKind) : Result := .err ⟨k, none⟩

/-- The decoder after PUSH of every byte of a sequence. -/
def after (cfg : Config) (bs : List Byte) (d : Decoder) : Decoder :=
  bs.foldl (fun d c => (d.push cfg c).1) d

/-- PUSH of byte number `k`, after the ones before it, completes a frame or raises. -/
def StopsAt (cfg : Config) (d : Decoder) (bs : List Byte) (k : Nat) : Prop :=
  ∃ c, bs[k]? = some c ∧
    (((after cfg (bs.take k) d).push cfg c).1.done = true ∨ ((after cfg (bs.take k) d).push cfg c).2 ≠ none)

/-- The error that PUSH of byte number `k`, after the ones before it, raises. -/
def errorAt (cfg : Config) (d : Decoder) (bs : List Byte) (k : Nat) : Option Err :=
  (bs[k]?).bind (fun c => ((after cfg (bs.take k) d).push cfg c).2)

/-- The wire string of the hex grammar (30_encoding.md R51): `':'`, the id's digit, pairs of digits, `'\n'`. -/
def hexWire (d0 : Byte) (ps : List (Byte × Byte)) : List Byte :=
  0x3A :: d0 :: (ps.flatMap (fun p => [p.1, p.2]) ++ [0x0A])

/-- The digits of a hex wire string are digits. -/
def AllDigits (d0 : Byte) (ps : List (Byte × Byte)) : Prop :=
  digitValue d0 ≠ none ∧ ∀ p ∈ ps, digitValue p.1 ≠ none ∧ digitValue p.2 ≠ none

/-- The buffer of a hex wire string (R63): "`buf[0] = nibble(d0)`" and
"`buf[i] = (nibble(d[2i-1]) << 4) | nibble(d[2i])`". -/
def hexBuffer (d0 : Byte) (ps : List (Byte × Byte)) : List Byte :=
  ((digitValue d0).getD 0).setWidth 8 ::
    ps.map (fun p => ((digitValue p.1).getD 0).setWidth 8 <<< 4 ||| ((digitValue p.2).getD 0).setWidth 8)

/-- A lower-case digit made upper-case (40_nibble_codec.md R82: "`b - 0x20`"), any other byte as it is. -/
def upcase (c : Byte) : Byte := if 0x61 ≤ c ∧ c ≤ 0x66 then c - 0x20 else c

/-- The hex spelling of a frame (43_frame_encoder.md R113). -/
def spelling : List Byte → List Byte
  | [] => []
  | id :: rest =>
    0x3A :: upperCode id.toNat ::
      (rest.flatMap (fun b => [upperCode (b.toNat / 16), upperCode (b.toNat % 16)]) ++ [0x0A])

/-- The typed value of value bytes (45_response_parser.md R151). -/
def typed : List Byte → Value
  | [] => .empty
  | [a] => .u8 a
  | [a, b] => .u16 (BitVec.ofNat 16 (a.toNat + 256 * b.toNat))
  | [a, b, c, d] =>
    .u32 (BitVec.ofNat 32 (a.toNat + 256 * b.toNat + 65536 * c.toNat + 16777216 * d.toNat))
  | v => .other v

/-- The bytes of a value (44_command_builder.md R131's table). -/
def valueBytes : Value → List Byte
  | .empty => []
  | .u8 n => [n]
  | .i8 n => [BitVec.ofNat 8 (n % 256).toNat]
  | .u16 n => [n.extractLsb' 0 8, n.extractLsb' 8 8]
  | .i16 n =>
    let m : BitVec 16 := BitVec.ofNat 16 (n % 65536).toNat
    [m.extractLsb' 0 8, m.extractLsb' 8 8]
  | .u32 n => [n.extractLsb' 0 8, n.extractLsb' 8 8, n.extractLsb' 16 8, n.extractLsb' 24 8]
  | .i32 n =>
    let m : BitVec 32 := BitVec.ofNat 32 (n % 4294967296).toNat
    [m.extractLsb' 0 8, m.extractLsb' 8 8, m.extractLsb' 16 8, m.extractLsb' 24 8]
  | .ascii s => s
  | .other b => b

/-- What `guess(venc(x))` gives (R153). -/
def regained : Value → Value
  | .empty => .empty
  | .u8 n => .u8 n
  | .i8 n => .u8 (BitVec.ofNat 8 (n % 256).toNat)
  | .u16 n => .u16 n
  | .i16 n => .u16 (BitVec.ofNat 16 (n % 65536).toNat)
  | .u32 n => .u32 n
  | .i32 n => .u32 (BitVec.ofNat 32 (n % 4294967296).toNat)
  | .ascii s => typed s
  | .other b => typed b

/-- The flags byte as a sum of masks (30_encoding.md R61). -/
def flagMask (f : Flags) : Byte :=
  BitVec.ofNat 8 ((if f.unknownId then 1 else 0) + (if f.notSupported then 2 else 0)
    + (if f.parameterError then 4 else 0))

/-- The operands of Get, Set and Async before the value (R57). -/
def itemAndFlags (item : Code) (flags : Flags) : List Byte :=
  [item.extractLsb' 0 8, item.extractLsb' 8 8, flagMask flags]

/-- The 16-bit field of two payload bytes (R62). -/
def codeOf (a b : Byte) : Code := BitVec.ofNat 16 (a.toNat + 256 * b.toNat)

/-- The set of a flags byte's members (R61). -/
def flagsIn (b : Byte) : Flags :=
  { unknownId := decide (b.toNat % 2 = 1), notSupported := decide (b.toNat / 2 % 2 = 1),
    parameterError := decide (b.toNat / 4 % 2 = 1) }

/-- The three rows whose response is an Update, with their codes (R60, R148 to R150). -/
def updateRow (rest : List Byte) : Origin → Instr × Byte
  | .get => (.rspGet rest, 0x07)
  | .set => (.rspSet rest, 0x08)
  | .async => (.rspAsync rest, 0x0A)

/-- The response rows, by byte 0 (R60, R66). -/
def IsResponseRow (i : Instr) (id : Byte) (rest : List Byte) : Prop :=
  (i, id) ∈ [(Instr.rspDone rest, (0x01 : Byte)), (.rspUnknown rest, 0x03), (.rspError rest, 0x04),
    (.rspPing rest, 0x05), (.rspGet rest, 0x07), (.rspSet rest, 0x08), (.rspAsync rest, 0x0A)] ∨
  (i = .rspUnassigned id rest ∧ id ∉ [(0x01 : Byte), 0x03, 0x04, 0x05, 0x07, 0x08, 0x0A])

/-- The decoder's events and their sequences (00_scope.md R8). -/
def IsDecoderOp (i : Instr) : Prop := (∃ c, IsPush i c) ∨ i = .clear ∨ ∃ bs, i = .pushSlice bs

/-- The encoder's events and SEND (R8). -/
def IsEncoderOp (i : Instr) : Prop := (∃ f, i = .encLoad f) ∨ i = .encNext ∨ ∃ cmd, i = .send cmd

/-- Running operations one after another. -/
def runs : List Instr → State → Host.Outcome State Fault Refusal
  | [], s => .next s
  | i :: is, s =>
    match exec i s with
    | .next t => runs is t
    | .fault f => .fault f
    | .refused r => .refused r

/-- The fields that stand for the host and the parameters are as they were. -/
def HostSideKept (s t : State) : Prop := t.cfg = s.cfg ∧ t.pending = s.pending ∧ t.draws = s.draws

end Sys2Proof.Claims

open Sys2Proof.Claims

/-! ### The machine -/

/-- 00_scope.md R8 ("An *event* is applied to the block's state"), log 1, log 2, log 12: the model's own way to ask
for an operation. -/
def Obligations.StepRunsDecodedOperation : Prop :=
  ∀ (s : State) (bytes : List Byte) (rest : List Request) (i : Instr),
    s.pending = .op bytes :: rest → decode bytes = .ok i → i.wellFormed s.cfg = true →
      step s = exec i { s with pending := rest, draws := s.draws + 1 }

/-- R8: "between two events nothing changes"; and the requests that stop the model, which are the only ones: bytes that
decode to no operation, or to an ill-formed one (logs 1, 2, 12). Which bytes those are is
`UndecodableRequestsAreNamed`. -/
def Obligations.StepIdlesAndRefusesByName : Prop :=
  (∀ s : State, s.pending = [] → step s = .next s) ∧
  (∀ (s : State) (bytes : List Byte) (rest : List Request) (e : DecodeError),
    s.pending = .op bytes :: rest → decode bytes = .error e → step s = .refused (.undecodable e)) ∧
  (∀ (s : State) (bytes : List Byte) (rest : List Request) (i : Instr),
    s.pending = .op bytes :: rest → decode bytes = .ok i → i.wellFormed s.cfg = false →
      step s = .refused (.illFormed i)) ∧
  (∀ (s : State) (r : Refusal), step s = .refused r → ∃ bytes rest, s.pending = .op bytes :: rest ∧
    ((∃ e, decode bytes = .error e ∧ r = .undecodable e) ∨
      (∃ i, decode bytes = .ok i ∧ i.wellFormed s.cfg = false ∧ r = .illFormed i)))

/-- 30_encoding.md R76 and 60_exceptions.md R173, the order of 10_state.md R21: on one edge the decoder takes RESET,
else CLEAR, else PUSH, the encoder RESET, else ENC_LOAD, else ENC_NEXT, and the losers have no effect. -/
def Obligations.EdgeTakesOneEventPerAgent : Prop :=
  ∀ (s : State) (p : PortIn) (rest : List Request), s.Inv → s.pending = .edge p :: rest →
    ∃ t, step s = .next t ∧ t.cfg = s.cfg ∧ t.pending = rest ∧
      (p.rst = true → t.dec = Decoder.afterReset ∧ t.enc = Encoder.afterReset ∧ t.tx = s.tx) ∧
      (p.rst = false →
        (p.clr = true → exec .clear s = .next { s with dec := t.dec, result := .none } ∧ t.dec.fault = false) ∧
        (p.clr = false → p.rxValid = true →
          ∃ r, exec (.push p.rxData) s = .next { s with dec := t.dec, result := r }) ∧
        (p.clr = false → p.rxValid = false → t.dec = s.dec) ∧
        (p.encLoad = true →
          ∃ r, exec (.encLoad ((List.range p.encLen).map
              (fun k => BitVec.ofNat 8 (p.encFrame / 2 ^ (8 * k))))) s
            = .next { s with enc := t.enc, tx := t.tx, result := r }) ∧
        (p.encLoad = false → p.encNext = true →
          ∃ r, exec .encNext s = .next { s with enc := t.enc, tx := t.tx, result := r }) ∧
        (p.encLoad = false → p.encNext = false → t.enc = s.enc ∧ t.tx = s.tx))

/-- 10_state.md R24 and 70_reset_and_hazards.md R190: the values after RESET, and that the model starts from them.
The spec gives none for the buffers' contents; the model's empty buffers (log 8) are not claimed. -/
def Obligations.ResetLeavesListedValues : Prop :=
  (∀ s : State, ∃ t, exec .reset s = .next t ∧ t.cfg = s.cfg ∧ t.pending = s.pending ∧ t.tx = s.tx ∧
    t.dec.state = .start ∧ t.dec.rlen = 0 ∧ t.dec.fmt = .hex ∧ t.dec.ferr = .none ∧ t.dec.ebyte = 0x00 ∧
    t.enc.tlen = 0 ∧ t.enc.tpos = 0 ∧ t.enc.tact = false ∧ t.enc.tferr = .none ∧
    t.dec.done = false ∧ t.dec.valid = false ∧ t.dec.fault = false ∧ csum t.dec.rbuf = 0x00 ∧
    t.dec = State.reset.dec ∧ t.enc = State.reset.enc)

/-- 10_state.md R20, R12, R11, R17, 60_exceptions.md R160: the output ports show the state. Nothing is said of
`rd_data` at or above `rlen` nor of `tx_data` while `tact` = 0: free values (log 6). -/
def Obligations.PortsShowTheState : Prop :=
  ∀ (s : State) (idx : Nat),
    (portOut idx s).state = BitVec.ofNat 2
      ([Fsm.start, .lowNibble, .highNibble, .text].idxOf s.dec.state) ∧
    ((portOut idx s).done = true ↔ s.dec.state = .start ∧ 0 < s.dec.rbuf.length) ∧
    ((portOut idx s).valid = true ↔ Acceptable s.dec.rbuf) ∧
    ((portOut idx s).fmt = 0 ↔ s.dec.fmt = .hex) ∧
    ((portOut idx s).fault = true ↔ s.dec.ferr ≠ .none) ∧
    (portOut idx s).rlen = s.dec.rbuf.length ∧
    (∀ b, s.dec.rbuf[idx]? = some b → (portOut idx s).rdData = b) ∧
    (portOut idx s).csum = BitVec.ofNat 8 (sumOf s.dec.rbuf) ∧
    (portOut idx s).ferr = BitVec.ofNat 4
      ([ErrKind.none, .invalidHexDigit, .lengthMismatch, .checksumInvalid, .unknownResponseId, .unknownErrorId,
        .unknownItemId, .sliceConversionFailed, .invalidFlagsBits, .encInvariant].idxOf s.dec.ferr) ∧
    (portOut idx s).ebyte = s.dec.ebyte ∧
    (∀ b t, s.enc.tact = true → exec .encNext s = .next t → t.result = .byte b → (portOut idx s).txData = b) ∧
    (portOut idx s).tact = s.enc.tact ∧
    (portOut idx s).tferr = BitVec.ofNat 4
      ([ErrKind.none, .invalidHexDigit, .lengthMismatch, .checksumInvalid, .unknownResponseId, .unknownErrorId,
        .unknownItemId, .sliceConversionFailed, .invalidFlagsBits, .encInvariant].idxOf s.enc.tferr)

/-- 10_state.md R10, 20_memory.md R42, 60_exceptions.md R170, 00_scope.md R5: who writes what. No operation changes
the parameters; the decoder's leave the encoder and the transmit stream alone, the encoder's leave the decoder alone;
a pure function or observation changes neither. -/
def Obligations.AgentsShareNoState : Prop :=
  ∀ (i : Instr) (s t : State), exec i s = .next t →
    HostSideKept s t ∧
    (IsDecoderOp i → t.enc = s.enc ∧ t.tx = s.tx) ∧
    (IsEncoderOp i → t.dec = s.dec) ∧
    (¬ IsDecoderOp i → ¬ IsEncoderOp i → i ≠ .reset → (∀ w, i ≠ .decode w) →
      t.dec = s.dec ∧ t.enc = s.enc ∧ t.tx = s.tx)

/-- 70_reset_and_hazards.md R206 ("every event is accepted at once (the block never stalls)"), 40_nibble_codec.md R83
("inside the block `hex` never fails"): from every good state every operation completes, and no step of it faults. The
premise is the model's invariant: without it ENC_NEXT could meet a byte that has no digit (log 20). -/
def Obligations.EveryOperationCompletes : Prop :=
  ∀ s : State, s.Inv → (∀ i : Instr, ∃ t, exec i s = .next t) ∧ ∀ f : Fault, step s ≠ .fault f

/-- 10_state.md R13 for the decoder and the ranges of R14 for the encoder, with R5's demands on the parameters. -/
def Obligations.StepKeepsInvariant : Prop :=
  ∀ s t : State, s.Inv → step s = .next t → t.Inv

/-- R13: "true after reset". The parameters of the reset state are log 7's. -/
def Obligations.ResetHasInvariant : Prop := State.reset.Inv

/-! ### PUSH: the transition table -/

/-- 42_frame_decoder.md R91: RXBYTE row COLON's own effect, and PUSH(0x3A). -/
def Obligations.ColonInStartOpensHexFrame : Prop :=
  ∀ (i : Instr) (s : State), IsPush i 0x3A → s.dec.ferr = .none → s.dec.state = .start →
    ∃ t, exec i s = .next t ∧
      t = { s with dec := { s.dec with rbuf := [0x00], fmt := .hex, state := .lowNibble }, result := .none } ∧
      t.dec.done = false ∧ t.dec.valid = true

/-- R92: any other byte, TEXT_EN = 1 (rows LF, the digits, OTHER, and PUSH). -/
def Obligations.OtherByteInStartOpensText : Prop :=
  ∀ (i : Instr) (c : Byte) (s : State), IsPush i c → c ≠ 0x3A → s.cfg.textEn = true →
    s.dec.ferr = .none → s.dec.state = .start →
    ∃ t, exec i s = .next t ∧
      t = { s with dec := { s.dec with rbuf := [c], fmt := .text, state := .text }, result := .none } ∧
      t.dec.done = false

/-- R93: any other byte, TEXT_EN = 0. -/
def Obligations.OtherByteInStartIsDropped : Prop :=
  ∀ (i : Instr) (c : Byte) (s : State), IsPush i c → c ≠ 0x3A → s.cfg.textEn = false →
    s.dec.ferr = .none → s.dec.state = .start →
    ∃ t, exec i s = .next t ∧
      t = { s with dec := { s.dec with rbuf := [], state := .start }, result := .none } ∧
      t.dec.done = false

/-- R94: the digit rows' own effect. The premise on `rbuf` is what "the last byte" needs (R13 item 1 gives it). -/
def Obligations.DigitCompletesLastByte : Prop :=
  ∀ (i : Instr) (c : Byte) (v : Nibble) (s : State) (before : List Byte) (last : Byte),
    IsPush i c → digitValue c = some v → s.dec.ferr = .none → s.dec.state = .lowNibble →
    s.dec.rbuf = before ++ [last] →
    ∃ t, exec i s = .next t ∧
      t = { s with dec := { s.dec with rbuf := before ++ [last ||| v.setWidth 8], state := .highNibble },
                   result := .none } ∧
      t.dec.done = false

/-- R95: a byte that is no digit. -/
def Obligations.NonDigitInLowNibbleRaises : Prop :=
  ∀ (i : Instr) (c : Byte) (s : State), IsPush i c → digitValue c = none →
    s.dec.ferr = .none → s.dec.state = .lowNibble →
    exec i s = .next { s with dec := { s.dec with ferr := .invalidHexDigit, ebyte := c },
                              result := .err ⟨.invalidHexDigit, some c⟩ }

/-- R96: row LF's own effect. The premise on `rbuf` is R13 item 2's. -/
def Obligations.NewlineInHighNibbleCompletes : Prop :=
  ∀ (i : Instr) (s : State), IsPush i 0x0A → s.dec.ferr = .none → s.dec.state = .highNibble →
    s.dec.rbuf ≠ [] →
    ∃ t, exec i s = .next t ∧
      t = { s with dec := { s.dec with state := .start }, result := .none } ∧
      t.dec.done = true ∧ (t.dec.valid = true ↔ Acceptable s.dec.rbuf)

/-- R97: the digit is converted first, then the room is looked at. -/
def Obligations.ByteInHighNibbleStartsByteOrRaises : Prop :=
  ∀ (i : Instr) (c : Byte) (s : State), IsPush i c → c ≠ 0x0A →
    s.dec.ferr = .none → s.dec.state = .highNibble →
    (digitValue c = none →
      exec i s = .next { s with dec := { s.dec with ferr := .invalidHexDigit, ebyte := c },
                                result := .err ⟨.invalidHexDigit, some c⟩ }) ∧
    (digitValue c ≠ none → s.cfg.bufCap = some s.dec.rbuf.length →
      exec i s = .next { s with dec := { s.dec with ferr := .lengthMismatch, ebyte := c },
                                result := .err ⟨.lengthMismatch, some c⟩ }) ∧
    (∀ v, digitValue c = some v → s.cfg.bufCap ≠ some s.dec.rbuf.length →
      exec i s = .next { s with dec := { s.dec with rbuf := s.dec.rbuf ++ [v.setWidth 8 <<< 4],
                                                    state := .lowNibble },
                                result := .none })

/-- R98: the checksum byte is the one after the first MARKER, whatever it is. -/
def Obligations.ByteInTextIsStored : Prop :=
  ∀ (i : Instr) (c : Byte) (s : State), IsPush i c → s.dec.ferr = .none → s.dec.state = .text →
    (s.cfg.bufCap = some s.dec.rbuf.length →
      exec i s = .next { s with dec := { s.dec with ferr := .lengthMismatch, ebyte := c },
                                result := .err ⟨.lengthMismatch, some c⟩ }) ∧
    (s.cfg.bufCap ≠ some s.dec.rbuf.length → EndsWithMarker s.dec.rbuf →
      ∃ t, exec i s = .next t ∧
        t = { s with dec := { s.dec with rbuf := s.dec.rbuf ++ [c], state := .start }, result := .none } ∧
        t.dec.done = true) ∧
    (s.cfg.bufCap ≠ some s.dec.rbuf.length → ¬ EndsWithMarker s.dec.rbuf →
      exec i s = .next { s with dec := { s.dec with rbuf := s.dec.rbuf ++ [c], state := .text },
                                result := .none })

/-- R99: a PUSH while faulted has no effect (log 9); the model's `result` says that nothing is returned. -/
def Obligations.PushWhileFaultedIsRefused : Prop :=
  ∀ (i : Instr) (c : Byte) (s : State), IsPush i c → s.dec.ferr ≠ .none →
    exec i s = .next { s with result := .none }

/-- 30_encoding.md R54, R75: every byte in the RXBYTE format is one row, the row is PUSH of that byte, and OTHER is
tried last. The row is one of the RXBYTE rows, never the event PUSH itself. -/
def Obligations.ByteClassRowsArePush : Prop :=
  ∀ (c : Byte) (s : State), ∃ i, decode [c, 0x01] = .ok i ∧ i.wellFormed s.cfg = true ∧
    (i = .pushOther c ∨ (i, c) ∈ classRows) ∧
    (i = .pushOther c ↔ c ≠ 0x3A ∧ c ≠ 0x0A ∧ digitValue c = none) ∧
    exec i s = exec (.push c) s

/-- 60_exceptions.md R165: decoder fault entry, on the state and on the ports. -/
def Obligations.DecoderFaultEntryIsPrecise : Prop :=
  ∀ (i : Instr) (c : Byte) (s t : State) (e : Err), IsPush i c → exec i s = .next t → t.result = .err e →
    s.dec.ferr = .none ∧
    t = { s with dec := { s.dec with ferr := e.kind, ebyte := c }, result := .err e } ∧
    e.info = some c ∧ (e.kind = .invalidHexDigit ∨ e.kind = .lengthMismatch) ∧
    (portOut 0 t).fault = true ∧ (portOut 0 t).ferr = e.kind.code ∧ (portOut 0 t).ebyte = c

/-- R166: until CLEAR or RESET (which `decode` begins with) nothing moves a faulted decoder. -/
def Obligations.DecoderFaultIsSticky : Prop :=
  ∀ (i : Instr) (s t : State), s.Inv → s.dec.ferr ≠ .none → exec i s = .next t →
    i ≠ .clear → i ≠ .reset → (∀ w, i ≠ .decode w) →
    t.dec = s.dec ∧ t.dec.done = false

/-- 42_frame_decoder.md R100 and 60_exceptions.md R167: CLEAR, in every state; but for `fmt`, what RESET leaves. -/
def Obligations.ClearReturnsToStart : Prop :=
  ∀ s : State, ∃ t, exec .clear s = .next t ∧
    t = { s with dec := { s.dec with rbuf := [], state := .start, ferr := .none, ebyte := 0x00 },
                 result := .none } ∧
    t.dec.done = false ∧ t.dec.valid = false ∧ t.dec.fault = false ∧
    (∀ u, exec .reset s = .next u → { t.dec with fmt := u.dec.fmt } = u.dec)

/-- 20_memory.md R37: outside Start a PUSH appends one byte, or ORs 4 bits into the last byte's low nibble, or leaves
the buffer alone; every other index reads as before. -/
def Obligations.PushChangesAtMostOneByte : Prop :=
  ∀ (i : Instr) (c : Byte) (s t : State), IsPush i c → s.dec.state ≠ .start → exec i s = .next t →
    (t.dec.rbuf.length = s.dec.rbuf.length + 1 ∧ ∀ k, k < s.dec.rbuf.length → t.dec.rbuf[k]? = s.dec.rbuf[k]?) ∨
    (t.dec.rbuf.length = s.dec.rbuf.length ∧
      (∀ k, k + 1 ≠ s.dec.rbuf.length → t.dec.rbuf[k]? = s.dec.rbuf[k]?) ∧
      (t.dec.rbuf = s.dec.rbuf ∨
        ∃ v : Nibble, ∀ b, s.dec.rbuf.getLast? = some b → t.dec.rbuf.getLast? = some (b ||| v.setWidth 8)))

/-- 42_frame_decoder.md R102, R103, and 20_memory.md R39: the observations, which change nothing; and 10_state.md R17:
"`done` and `fault` are never both 1", in every good state. -/
def Obligations.ObservationsReadTheDecoder : Prop :=
  ∀ s : State,
    exec .done s = .next { s with result := .bool (decide (s.dec.state = .start ∧ 0 < s.dec.rbuf.length)) } ∧
    exec .frame s = .next { s with result := .bytes s.dec.rbuf } ∧
    (s.Inv → ¬ (s.dec.done = true ∧ s.dec.fault = true))

/-! ### The composites and whole frames -/

/-- 42_frame_decoder.md R104: where `push_slice` stops and what it returns. On a faulted decoder the count and the absent
error are log 19's reading, which rests on log 9. -/
def Obligations.PushSliceStopsAtFrameOrError : Prop :=
  ∀ (s : State) (bs : List Byte), ∃ n, n ≤ bs.length ∧
    (∀ k, k + 1 < n → ¬ StopsAt s.cfg s.dec bs k) ∧
    (n < bs.length → ∃ k, n = k + 1 ∧ StopsAt s.cfg s.dec bs k) ∧
    exec (.pushSlice bs) s = .next { s with
      dec := after s.cfg (bs.take n) s.dec
      result := .consumed n (if n = 0 then none else errorAt s.cfg s.dec bs (n - 1)) }

/-- R105: "RESET, `push_slice(w)`", and the three results. -/
def Obligations.DecodeIsResetThenPushSlice : Prop :=
  ∀ (s s0 s1 : State) (w : List Byte) (n : Nat) (e : Option Err),
    exec .reset s = .next s0 → exec (.pushSlice w) s0 = .next s1 → s1.result = .consumed n e →
    exec (.decode w) s = .next { s1 with
      result := .wire (match e with
        | some e => .err e
        | none => if s1.dec.done = true ∧ n = w.length then .ok s1.dec.rbuf else .incomplete) }

/-- 30_encoding.md R63 (with R51's grammar and R105): what a hex frame decodes to. The encoder's reset by `decode` is
log 10. -/
def Obligations.HexFrameDecodesToItsBytes : Prop :=
  ∀ (s : State) (d0 : Byte) (ps : List (Byte × Byte)), AllDigits d0 ps → Fits s (ps.length + 1) →
    exec (.decode (hexWire d0 ps)) s = .next { s with
      dec := { state := .start, rbuf := hexBuffer d0 ps, fmt := .hex, ferr := .none, ebyte := 0x00 }
      enc := Encoder.afterReset
      result := .wire (.ok (hexBuffer d0 ps)) }

/-- 42_frame_decoder.md R106, both laws. -/
def Obligations.HexRoundTrips : Prop :=
  (∀ (s : State) (id : Byte) (rest : List Byte), Fits s (rest.length + 1) → id ≤ 0x0F →
    ∃ w t, exec (.encode (id :: rest)) s = .next { s with result := .bytes w } ∧
      exec (.decode w) s = .next t ∧ t.result = .wire (.ok (id :: rest))) ∧
  (∀ (s : State) (d0 : Byte) (ps : List (Byte × Byte)), AllDigits d0 ps → Fits s (ps.length + 1) →
    ∃ f t, exec (.decode (hexWire d0 ps)) s = .next t ∧ t.result = .wire (.ok f) ∧
      exec (.encode f) s = .next { s with result := .bytes ((hexWire d0 ps).map upcase) })

/-- 30_encoding.md R52 (with 42_frame_decoder.md R98 and R105): a text block ends one byte after the first place where the
bytes end with MARKER, and every byte of it is stored verbatim. The encoder's reset by `decode` is log 10. -/
def Obligations.TextBlockEndsAfterFirstMarker : Prop :=
  ∀ (s : State) (b0 : Byte) (body : List Byte) (ck : Byte), s.cfg.textEn = true → b0 ≠ 0x3A →
    EndsWithMarker (b0 :: body) →
    (∀ k, k < (b0 :: body).length → ¬ EndsWithMarker ((b0 :: body).take k)) →
    Fits s (body.length + 2) →
    exec (.decode (b0 :: body ++ [ck])) s = .next { s with
      dec := { state := .start, rbuf := b0 :: body ++ [ck], fmt := .text, ferr := .none, ebyte := 0x00 }
      enc := Encoder.afterReset
      result := .wire (.ok (b0 :: body ++ [ck])) }

/-- 42_frame_decoder.md R107: a garbage byte before a well-formed hex frame. With TEXT_EN = 0 the frame decodes; with
TEXT_EN = 1 it does not, and all of it is text. -/
def Obligations.GarbageBeforeHexFrame : Prop :=
  ∀ (s : State) (g d0 : Byte) (ps : List (Byte × Byte)), g ≠ 0x3A → AllDigits d0 ps →
    (s.cfg.textEn = false → Fits s (ps.length + 1) →
      ∃ t, exec (.decode (g :: hexWire d0 ps)) s = .next t ∧ t.result = .wire (.ok (hexBuffer d0 ps))) ∧
    (s.cfg.textEn = true → Fits s ((hexWire d0 ps).length + 1) →
      ∃ t, exec (.decode (g :: hexWire d0 ps)) s = .next t ∧ t.result = .wire .incomplete ∧
        t.dec.state = .text ∧ t.dec.rbuf = g :: hexWire d0 ps ∧ t.dec.ferr = .none)

/-- 10_state.md R22: the match counter is exact: "`ends_with(rbuf, MARKER)` is `mk = 10`". -/
def Obligations.MarkerCounterIsExact : Prop :=
  ∀ buf : List Byte, EndsWithMarker buf ↔ mkCounter buf = 10

/-! ### The encoder -/

/-- 43_frame_encoder.md R111, 60_exceptions.md R168, R169: ENC_LOAD, its two checks in order, and its faults. -/
def Obligations.EncLoadLoadsOrFaults : Prop :=
  ∀ (s : State) (f : List Byte),
    (f = [] ∨ ¬ Fits s f.length →
      exec (.encLoad f) s = .next { s with enc := { s.enc with tferr := .lengthMismatch, tact := false },
                                           result := .err ⟨.lengthMismatch, none⟩ }) ∧
    (∀ id rest, f = id :: rest → Fits s f.length → 0x0F < id →
      exec (.encLoad f) s = .next { s with enc := { s.enc with tferr := .encInvariant, tact := false },
                                           result := .err ⟨.encInvariant, some id⟩ }) ∧
    (∀ id rest, f = id :: rest → Fits s f.length → id ≤ 0x0F →
      exec (.encLoad f) s = .next { s with enc := { tbuf := f, tpos := 0, tact := true, tferr := .none },
                                           result := .none })

/-- 43_frame_encoder.md R112: the byte at each place of the sequence, which `tx_data` shows before; that it joins `tx` is
log 5, the model's choice. The premises on `tpos` and `tbuf` are what a
loaded, unexhausted sequence has (R14, R83). -/
def Obligations.EncNextYieldsSequence : Prop :=
  (∀ s : State, s.enc.tact = false → exec .encNext s = .next { s with result := .none }) ∧
  (∀ (s : State) (id : Byte) (rest : List Byte), s.enc.tact = true → s.enc.tbuf = id :: rest → id ≤ 0x0F →
    s.enc.tpos ≤ 2 * s.enc.tbuf.length →
    ∃ b, exec .encNext s = .next { s with
        enc := { s.enc with tpos := s.enc.tpos + 1, tact := decide (s.enc.tpos ≠ 2 * s.enc.tbuf.length) }
        tx := s.tx ++ [b]
        result := .byte b } ∧
      (portOut 0 s).txData = b ∧
      (s.enc.tpos = 0 → b = 0x3A) ∧
      (s.enc.tpos = 1 → b = upperCode id.toNat) ∧
      (∀ k x, 1 ≤ k → s.enc.tbuf[k]? = some x →
        (s.enc.tpos = 2 * k → b = upperCode (x.toNat / 16)) ∧
        (s.enc.tpos = 2 * k + 1 → b = upperCode (x.toNat % 16))) ∧
      (s.enc.tpos = 2 * s.enc.tbuf.length → b = 0x0A))

/-- 43_frame_encoder.md R113's pseudocode, or the error of R111 (log 16). -/
def Obligations.EncodeSpellsOrFails : Prop :=
  ∀ (s : State) (f : List Byte),
    (f = [] ∨ ¬ Fits s f.length → exec (.encode f) s = .next { s with result := plain .lengthMismatch }) ∧
    (∀ id rest, f = id :: rest → Fits s f.length → 0x0F < id →
      exec (.encode f) s = .next { s with result := .err ⟨.encInvariant, some id⟩ }) ∧
    (∀ id rest, f = id :: rest → Fits s f.length → id ≤ 0x0F →
      exec (.encode f) s = .next { s with result := .bytes (spelling f) })

/-- 43_frame_encoder.md R113 and 30_encoding.md R71: "`encode(f)` equals the bytes yielded by ENC_LOAD(f) followed by
ENC_NEXT until `none`", `2n + 1` of them. They are read off the transmit stream `tx`, the model's choice (log 5). -/
def Obligations.EncoderYieldsEncode : Prop :=
  ∀ (s : State) (id : Byte) (rest : List Byte), Fits s (rest.length + 1) → id ≤ 0x0F →
    ∃ w t, exec (.encode (id :: rest)) s = .next { s with result := .bytes w } ∧
      w.length = 2 * (rest.length + 1) + 1 ∧
      runs (.encLoad (id :: rest) :: List.replicate w.length .encNext) s = .next t ∧
      t.tx = s.tx ++ w ∧ t.enc.tact = false ∧ t.dec = s.dec ∧
      exec .encNext t = .next { t with result := .none }

/-! ### NibbleCodec and Checksum -/

/-- 40_nibble_codec.md R80, by R55's table. -/
def Obligations.NibbleConvertsDigits : Prop :=
  ∀ (b : Byte) (s : State),
    exec (.nibble b) s = .next { s with
      result := match digitValue b with
        | some v => .nibble v
        | none => .err ⟨.invalidHexDigit, some b⟩ }

/-- 40_nibble_codec.md R81, by R55's table. -/
def Obligations.HexProducesUpperCase : Prop :=
  ∀ (v : Byte) (s : State),
    exec (.hex v) s = .next { s with
      result := if v.toNat ≤ 15 then .byte (upperCode v.toNat) else .err ⟨.invalidHexDigit, some v⟩ }

/-- 40_nibble_codec.md R82: the laws of the pair, as operations of the block. -/
def Obligations.NibbleCodecLaws : Prop :=
  (∀ (v : Nibble) (s : State), ∃ b, exec (.hex (v.setWidth 8)) s = .next { s with result := .byte b } ∧
    exec (.nibble b) s = .next { s with result := .nibble v }) ∧
  (∀ (b : Byte) (s : State), digitValue b = none →
    exec (.nibble b) s = .next { s with result := .err ⟨.invalidHexDigit, some b⟩ }) ∧
  (∀ (b : Byte) (v : Nibble) (s : State), exec (.nibble b) s = .next { s with result := .nibble v } →
    exec (.hex (v.setWidth 8)) s = .next { s with result := .byte (upcase b) }) ∧
  (∀ (v w : Nibble) (s : State), exec (.hex (v.setWidth 8)) s = exec (.hex (w.setWidth 8)) s → v = w)

/-- 41_checksum.md R85. -/
def Obligations.CsumIsWrappingSum : Prop :=
  ∀ (bs : List Byte) (s : State),
    exec (.csum bs) s = .next { s with result := .byte (BitVec.ofNat 8 (sumOf bs)) }

/-- 41_checksum.md R87, with both accepted sums, and the status flag `valid`, "this function of `rbuf`". -/
def Obligations.ValidAcceptsBothSums : Prop :=
  ∀ (bs : List Byte) (s : State), ∃ r, exec (.valid bs) s = .next { s with result := .bool r } ∧
    (r = true ↔ Acceptable bs) ∧ (s.dec.valid = true ↔ Acceptable s.dec.rbuf)

/-- 41_checksum.md R88 and R89: the byte that completes a frame, and the law. -/
def Obligations.MkcsumCompletesTo55 : Prop :=
  ∀ (bs : List Byte) (s : State), ∃ b, exec (.mkcsum bs) s = .next { s with result := .byte b } ∧
    b = 0x55 - BitVec.ofNat 8 (sumOf bs) ∧ sumOf (bs ++ [b]) = 0x55 ∧ Acceptable (bs ++ [b])

/-! ### The builder -/

/-- 44_command_builder.md R121 to R125: the five commands without operands, byte for byte. That the CMD row of each
is `build` of its command is log 11's reading of the table. -/
def Obligations.PlainCommandFrames : Prop :=
  ∀ s : State,
    exec .cmdBoot s = .next { s with result := .bytes [0x00, 0x55] } ∧
    exec .cmdPing s = .next { s with result := .bytes [0x01, 0x54] } ∧
    exec .cmdVersion s = .next { s with result := .bytes [0x03, 0x52] } ∧
    exec .cmdProduct s = .next { s with result := .bytes [0x04, 0x51] } ∧
    exec .cmdRestart s = .next { s with result := .bytes [0x06, 0x4F] } ∧
    exec (.build .boot) s = exec .cmdBoot s ∧ exec (.build .ping) s = exec .cmdPing s ∧
    exec (.build .version) s = exec .cmdVersion s ∧ exec (.build .product) s = exec .cmdProduct s ∧
    exec (.build .restart) s = exec .cmdRestart s

/-- R126, R127, R128 and 30_encoding.md R57: Get, Set and Async; the checksum byte is the one that makes the sum
0x55. That the CMD row of each is `build` of its command is log 11's reading of the table. -/
def Obligations.ItemCommandFrames : Prop :=
  ∀ (s : State) (item : Code) (flags : Flags) (value : Value),
    (∃ ck, exec (.cmdGet item flags) s
        = .next { s with result := .bytes (0x07 :: itemAndFlags item flags ++ [ck]) } ∧
      sumOf (0x07 :: itemAndFlags item flags ++ [ck]) = 0x55) ∧
    (∃ ck, exec (.cmdSet item flags value) s
        = .next { s with result := .bytes (0x08 :: itemAndFlags item flags ++ valueBytes value ++ [ck]) } ∧
      sumOf (0x08 :: itemAndFlags item flags ++ valueBytes value ++ [ck]) = 0x55) ∧
    (∃ ck, exec (.cmdAsync item flags value) s
        = .next { s with result := .bytes (0x0A :: itemAndFlags item flags ++ valueBytes value ++ [ck]) } ∧
      sumOf (0x0A :: itemAndFlags item flags ++ valueBytes value ++ [ck]) = 0x55) ∧
    exec (.build (.get item flags)) s = exec (.cmdGet item flags) s ∧
    exec (.build (.set item flags value)) s = exec (.cmdSet item flags value) s ∧
    exec (.build (.async item flags value)) s = exec (.cmdAsync item flags value) s

/-- 44_command_builder.md R133 and 41_checksum.md R89: every built frame sums to 0x55, is valid, and comes back from
its own spelling. -/
def Obligations.BuiltFramesAreValidAndComeBack : Prop :=
  ∀ (s : State) (cmd : Command), ∃ f, exec (.build cmd) s = .next { s with result := .bytes f } ∧
    sumOf f = 0x55 ∧ exec (.valid f) s = .next { s with result := .bool true } ∧
    (Fits s f.length →
      ∃ w t, exec (.encode f) s = .next { s with result := .bytes w } ∧
        exec (.decode w) s = .next t ∧ t.result = .wire (.ok f))

/-- 44_command_builder.md R132: SEND is ENC_LOAD of the built frame; the only error is the length's. -/
def Obligations.SendLoadsTheBuiltFrame : Prop :=
  ∀ (s : State) (cmd : Command), ∃ f, exec (.build cmd) s = .next { s with result := .bytes f } ∧
    exec (.send cmd) s = exec (.encLoad f) s ∧
    (Fits s f.length →
      exec (.send cmd) s = .next { s with enc := { tbuf := f, tpos := 0, tact := true, tferr := .none },
                                          result := .none }) ∧
    (¬ Fits s f.length →
      exec (.send cmd) s = .next { s with enc := { s.enc with tferr := .lengthMismatch, tact := false },
                                          result := plain .lengthMismatch })

/-- 44_command_builder.md R129 and 30_encoding.md R61: the flags byte is the set's masks, bits 7:3 never set. -/
def Obligations.FlagbyteIsTheMasks : Prop :=
  ∀ (flags : Flags) (s : State), ∃ b, exec (.flagbyte flags) s = .next { s with result := .byte b } ∧
    b = flagMask flags ∧ b &&& 0xF8 = 0

/-- 44_command_builder.md R131: the value encoder. -/
def Obligations.VencWritesTheVariantsBytes : Prop :=
  ∀ (value : Value) (s : State),
    exec (.venc value) s = .next { s with result := .bytes (valueBytes value) }

/-! ### The parser -/

/-- 45_response_parser.md R151: "width alone decides the representation". -/
def Obligations.GuessTypesByWidth : Prop :=
  ∀ (v : List Byte) (s : State), exec (.guess v) s = .next { s with result := .value (typed v) }

/-- 45_response_parser.md R153: `guess` after `venc`. -/
def Obligations.GuessAfterVenc : Prop :=
  ∀ (value : Value) (s t : State) (bs : List Byte),
    exec (.venc value) s = .next t → t.result = .bytes bs →
    exec (.guess bs) s = .next { s with result := .value (regained value) }

/-- 45_response_parser.md R140, 30_encoding.md R75: every frame in the RSP format is one row (layout: log 2),
and the row is `parse` of that frame (log 11). -/
def Obligations.ResponseRowsAreParse : Prop :=
  ∀ (id : Byte) (rest : List Byte) (s : State), ∃ i, decode (id :: 0x03 :: rest) = .ok i ∧
    i.wellFormed s.cfg = true ∧ IsResponseRow i id rest ∧ exec i s = exec (.parse (id :: rest)) s

/-- 45_response_parser.md R141: validity is the first check, for `parse` and for every row (log 11). -/
def Obligations.ParseRejectsInvalidFirst : Prop :=
  (∀ (f : List Byte) (s : State), ¬ Acceptable f →
    exec (.parse f) s = .next { s with result := plain .checksumInvalid }) ∧
  (∀ (i : Instr) (id : Byte) (rest : List Byte) (s : State), IsResponseRow i id rest → ¬ Acceptable (id :: rest) →
    exec i s = .next { s with result := plain .checksumInvalid })

/-- 45_response_parser.md R142, 30_encoding.md R66: a valid frame with no assigned code, one-byte frames among them.
The row is log 11's. -/
def Obligations.UnassignedResponseCodeFails : Prop :=
  ∀ (id : Byte) (rest : List Byte) (s : State), Acceptable (id :: rest) →
    id ∉ [(0x01 : Byte), 0x03, 0x04, 0x05, 0x07, 0x08, 0x0A] →
    exec (.rspUnassigned id rest) s = .next { s with result := plain .unknownResponseId } ∧
    exec (.parse (id :: rest)) s = .next { s with result := plain .unknownResponseId }

/-- 45_response_parser.md R144, R145: Done and Unknown wrap the payload, whatever its length. The rows are
log 11's. -/
def Obligations.DoneAndUnknownWrapThePayload : Prop :=
  ∀ (p : List Byte) (ck : Byte) (s : State),
    (Acceptable (0x01 :: p ++ [ck]) →
      exec (.rspDone (p ++ [ck])) s = .next { s with result := .response (.done (typed p)) } ∧
      exec (.parse (0x01 :: p ++ [ck])) s = .next { s with result := .response (.done (typed p)) }) ∧
    (Acceptable (0x03 :: p ++ [ck]) →
      exec (.rspUnknown (p ++ [ck])) s = .next { s with result := .response (.unknown (typed p)) } ∧
      exec (.parse (0x03 :: p ++ [ck])) s = .next { s with result := .response (.unknown (typed p)) })

/-- 45_response_parser.md R146. The row is log 11's. -/
def Obligations.ErrorResponseNamesItsCode : Prop :=
  ∀ (p : List Byte) (ck : Byte) (s : State), Acceptable (0x04 :: p ++ [ck]) →
    (p.length < 2 →
      exec (.rspError (p ++ [ck])) s = .next { s with result := plain .sliceConversionFailed }) ∧
    (∀ a b more, p = a :: b :: more → codeOf a b ∉ s.cfg.errorIds →
      exec (.rspError (p ++ [ck])) s = .next { s with result := plain .unknownErrorId }) ∧
    (∀ a b more, p = a :: b :: more → codeOf a b ∈ s.cfg.errorIds →
      exec (.rspError (p ++ [ck])) s = .next { s with result := .response (.error (codeOf a b)) })

/-- 45_response_parser.md R147. The row is log 11's. -/
def Obligations.PingResponseReadsBcd : Prop :=
  ∀ (p : List Byte) (ck : Byte) (s : State), Acceptable (0x05 :: p ++ [ck]) →
    (p.length < 2 →
      exec (.rspPing (p ++ [ck])) s = .next { s with result := plain .sliceConversionFailed }) ∧
    (∀ a b more, p = a :: b :: more →
      exec (.rspPing (p ++ [ck])) s = .next { s with result := .response (.ping
        (BitVec.ofNat 8 (b.toNat / 16)) (BitVec.ofNat 4 (b.toNat % 16))
        (BitVec.ofNat 8 (a.toNat % 16 + 10 * (a.toNat / 16)))) })

/-- 45_response_parser.md R148, R149, R150: the checks in order, and the Update. The rows are
log 11's. -/
def Obligations.UpdateResponsesCheckInOrder : Prop :=
  ∀ (origin : Origin) (p : List Byte) (ck : Byte) (s : State) (i : Instr) (id : Byte),
    updateRow (p ++ [ck]) origin = (i, id) → Acceptable (id :: p ++ [ck]) →
    (p.length < 2 → exec i s = .next { s with result := plain .sliceConversionFailed }) ∧
    (∀ a b more, p = a :: b :: more → codeOf a b ∉ s.cfg.itemIds →
      exec i s = .next { s with result := plain .unknownItemId }) ∧
    (∀ a b, p = [a, b] → codeOf a b ∈ s.cfg.itemIds →
      exec i s = .next { s with result := plain .sliceConversionFailed }) ∧
    (∀ a b f v, p = a :: b :: f :: v → codeOf a b ∈ s.cfg.itemIds → f &&& 0xF8 ≠ 0 →
      exec i s = .next { s with result := plain .invalidFlagsBits }) ∧
    (∀ a b f v, p = a :: b :: f :: v → codeOf a b ∈ s.cfg.itemIds → f &&& 0xF8 = 0 →
      exec i s = .next { s with result := .response (.update origin (codeOf a b) (flagsIn f) (typed v)) })

/-- 60_exceptions.md R161: the operations that can raise nothing, PUSH in Start among them. -/
def Obligations.SomeOperationsNeverRaise : Prop :=
  ∀ (i : Instr) (s t : State) (e : Err), exec i s = .next t →
    (i = .reset ∨ i = .clear ∨ i = .encNext ∨ (∃ bs, i = .csum bs) ∨ (∃ bs, i = .valid bs) ∨
      (∃ bs, i = .mkcsum bs) ∨ (∃ cmd, i = .build cmd) ∨ (∃ v, i = .venc v) ∨ (∃ bs, i = .guess bs) ∨
      ((∃ c, IsPush i c) ∧ s.dec.state = .start)) →
    t.result ≠ .err e

/-! ### The encoding of operations -/

/-- 30_encoding.md R75, R76, with the model's operand layout (log 2): no bit of an encoding is dropped. -/
def Obligations.DecodeOfEncodeIsTheOperation : Prop :=
  ∀ (cfg : Config) (i : Instr), i.wellFormed cfg = true → decode (encode i) = .ok i

/-- Which requests are no operation (layout: log 2): a command code outside R59's eight (30_encoding.md R67: "the builder
cannot be asked to build them"), in the CMD format and as the operand of `build` and SEND; strobes with no event
(R76: "no event = `000`"), or with a bit above the three; a flags operand with a bit of 7:3 set (R61 "must be zero",
R129 "The type admits no other bit"), in each operation that takes one. -/
def Obligations.UndecodableRequestsAreNamed : Prop :=
  (∀ (code : Byte) (ops : List Byte),
    code ∉ [(0x00 : Byte), 0x01, 0x03, 0x04, 0x06, 0x07, 0x08, 0x0A] →
    decode (code :: 0x02 :: ops) = .error (.unassignedCommand code) ∧
    decode (0x06 :: 0x06 :: code :: ops) = .error (.unassignedCommand code) ∧
    decode (0x09 :: 0x06 :: code :: ops) = .error (.unassignedCommand code)) ∧
  (∀ (strobes : Byte) (ops : List Byte), strobes = 0x00 ∨ 0x07 < strobes →
    decode (strobes :: 0x04 :: ops) = .error (.noEvent strobes) ∧
    decode (strobes :: 0x05 :: ops) = .error (.noEvent strobes)) ∧
  (∀ (a b f : Byte) (v : List Byte), f &&& 0xF8 ≠ 0 →
    decode [0x07, 0x06, f] = .error (.reservedFlagsOperand f) ∧
    (∀ call ∈ [[(0x07 : Byte), 0x02], [0x06, 0x06, 0x07], [0x09, 0x06, 0x07]],
      decode (call ++ [a, b, f]) = .error (.reservedFlagsOperand f)) ∧
    (∀ call ∈ [[(0x08 : Byte), 0x02], [0x0A, 0x02], [0x06, 0x06, 0x08], [0x06, 0x06, 0x0A], [0x09, 0x06, 0x08],
        [0x09, 0x06, 0x0A]],
      decode (call ++ a :: b :: f :: v) = .error (.reservedFlagsOperand f)))

/-- A few words written out from R54, R55, R59, R60 and R76; the bytes that are not the spec's are log 2's. -/
def Obligations.WrittenWordsDecode : Prop :=
  decode [0x3A, 1] = .ok .pushColon ∧ decode [0x66, 1] = .ok .pushDigitLcF ∧
  decode [0x67, 1] = .ok (.pushOther 0x67) ∧ decode [0x06, 2] = .ok .cmdRestart ∧
  decode [0x0A, 3, 0x43] = .ok (.rspAsync [0x43]) ∧ decode [0x06, 3] = .ok (.rspUnassigned 0x06 []) ∧
  decode [0x07, 4] = .ok .reset ∧ decode [0x03, 4] = .ok .clear ∧ decode [0x01, 4, 0x35] = .ok (.push 0x35) ∧
  decode [0x03, 5, 0x01, 0x54] = .ok (.encLoad [0x01, 0x54]) ∧ decode [0x01, 5] = .ok .encNext
end

