-- ==== Sys2Proof/Laws/Fields.lean ====
section
/-! SUPPORT. Laws of byte order, of the two halves of a byte, of the flag set and of the buffer primitives. -/

namespace Sys2Proof.Machine

/-! ### Byte order -/

@[simp] theorem leBytes_length (n v : Nat) : (leBytes n v).length = n := by
  induction n generalizing v with
  | zero => rfl
  | succ n ih => simp [leBytes, ih]

theorem leNat_leBytes (n v : Nat) : leNat (leBytes n v) = v % 256 ^ n := by
  induction n generalizing v with
  | zero => simp [leBytes, leNat, Nat.mod_one]
  | succ n ih =>
    have h : v % (256 * 256 ^ n) = v % 256 + 256 * (v / 256 % 256 ^ n) := Nat.mod_mul
    have hp : 256 ^ (n + 1) = 256 * 256 ^ n := Nat.pow_succ'
    rw [leBytes, leNat, ih, BitVec.toNat_ofNat, hp, h]

theorem leNat_lt (bs : List Byte) : leNat bs < 256 ^ bs.length := by
  induction bs with
  | nil => simp [leNat]
  | cons b bs ih =>
    have hb : b.toNat < 256 := b.isLt
    rw [leNat, List.length_cons, Nat.pow_succ]
    omega

theorem leBytes_leNat (bs : List Byte) : leBytes bs.length (leNat bs) = bs := by
  induction bs with
  | nil => rfl
  | cons b bs ih =>
    have hb : b.toNat < 256 := b.isLt
    have hd : (b.toNat + 256 * leNat bs) / 256 = leNat bs := by omega
    have hm : BitVec.ofNat 8 (b.toNat + 256 * leNat bs) = b := by
      apply BitVec.eq_of_toNat_eq
      rw [BitVec.toNat_ofNat]
      omega
    rw [List.length_cons, leNat, leBytes, hd, ih, hm]

theorem memRead_zero_append (p q : List Byte) : memRead (p ++ q) 0 p.length = leNat p := by
  simp [memRead]

/-! ### The halves of a byte -/

@[simp] theorem lowNibble_zextNibble (v : Nibble) : lowNibble (zextNibble v) = v := by
  revert v; decide

@[simp] theorem highNibble_zextNibble (v : Nibble) : highNibble (zextNibble v) = 0 := by
  revert v; decide

@[simp] theorem lowNibble_shiftedNibble (v : Nibble) : lowNibble (shiftedNibble v) = 0 := by
  revert v; decide

@[simp] theorem highNibble_shiftedNibble (v : Nibble) : highNibble (shiftedNibble v) = v := by
  revert v; decide

/-- A byte is its high nibble shifted, with its low nibble ORed in. -/
theorem shiftedNibble_or_zextNibble (b : Byte) : shiftedNibble (highNibble b) ||| zextNibble (lowNibble b) = b := by
  revert b; decide

/-- A byte of at most 0x0F is its low nibble. -/
theorem zextNibble_lowNibble (b : Byte) (h : b ≤ 0x0F) : zextNibble (lowNibble b) = b := by
  revert b; decide

theorem zextNibble_le (v : Nibble) : zextNibble v ≤ 0x0F := by
  revert v; decide

/-! ### The flag set -/

@[simp] theorem flagsOfByte_flagbyte (f : Flags) : flagsOfByte (flagbyte f) = f := by
  obtain ⟨a, b, c⟩ := f
  revert a b c; decide

@[simp] theorem reservedFlagBits_flagbyte (f : Flags) : reservedFlagBits (flagbyte f) = false := by
  obtain ⟨a, b, c⟩ := f
  revert a b c; decide

theorem flagbyte_flagsOfByte (b : Byte) (h : reservedFlagBits b = false) : flagbyte (flagsOfByte b) = b := by
  revert b; decide

/-! ### Buffers -/

@[simp] theorem appendByte_length (buf : List Byte) (v : Byte) : (appendByte buf v).length = buf.length + 1 := by
  simp [appendByte]

@[simp] theorem orLast_length (buf : List Byte) (v : Nibble) : (orLast buf v).length = buf.length := by
  simp [orLast]

@[simp] theorem orLast_append (buf : List Byte) (b : Byte) (v : Nibble) :
    orLast (buf ++ [b]) v = buf ++ [b ||| zextNibble v] := by
  apply List.ext_getElem?
  intro i
  rw [orLast, List.getElem?_modify]
  simp only [List.length_append, List.length_cons, List.length_nil, Nat.zero_add, Nat.add_sub_cancel]
  by_cases h : buf.length = i
  · subst h; simp
  · by_cases hi : i < buf.length
    · simp [h, List.getElem?_append_left hi]
    · have h1 : buf.length + 1 ≤ i := by omega
      simp [h, List.getElem?_eq_none, h1]

/-- Every index but the last reads as before (20_memory.md R37). -/
theorem readByte_orLast_of_ne (buf : List Byte) (v : Nibble) (i : Nat) (h : i + 1 ≠ buf.length) :
    readByte (orLast buf v) i = readByte buf i := by
  rw [readByte, readByte, orLast, List.getElem?_modify]
  by_cases hi : buf.length - 1 = i
  · have : buf = [] := List.length_eq_zero_iff.mp (by omega)
    subst this; simp
  · simp [hi]

theorem readByte_appendByte_of_lt (buf : List Byte) (v : Byte) (i : Nat) (h : i < buf.length) :
    readByte (appendByte buf v) i = readByte buf i := by
  rw [readByte, readByte, appendByte, List.getElem?_append_left h]

@[simp] theorem readByte_appendByte_length (buf : List Byte) (v : Byte) :
    readByte (appendByte buf v) buf.length = some v := by
  simp [readByte, appendByte]

theorem endsWith_iff (s m : List Byte) : endsWith s m = true ↔ ∃ p, s = p ++ m := by
  constructor
  · intro h
    simp only [endsWith, Bool.and_eq_true, decide_eq_true_eq] at h
    exact ⟨s.take (s.length - m.length), by conv_lhs => rw [← List.take_append_drop (s.length - m.length) s, h.2]⟩
  · rintro ⟨p, rfl⟩
    simp [endsWith]

@[simp] theorem endsWith_append (p m : List Byte) : endsWith (p ++ m) m = true :=
  (endsWith_iff _ _).mpr ⟨p, rfl⟩

end Sys2Proof.Machine
end

