-- ==== Sys2Proof/Laws/Codec.lean ====
section
/-! SUPPORT. Laws of the NibbleCodec and of the Checksum unit. -/

namespace Sys2Proof.Machine

/-- `nibble` succeeds on exactly the bytes of the class HEXDIGIT. -/
theorem nibble_isOk_iff (b : Byte) : (nibble b).toOption.isSome = isHexDigit b := by
  revert b; decide

/-- What `nibble` can answer: a digit's value, or InvalidHexDigit with the byte. -/
theorem nibble_cases (b : Byte) :
    (∃ v, nibble b = .ok v ∧ isHexDigit b = true) ∨
    (nibble b = .error ⟨.invalidHexDigit, some b⟩ ∧ isHexDigit b = false) := by
  revert b; decide

@[simp] theorem nibble_hexDigit (v : Nibble) : nibble (hexDigit v) = .ok v := by
  revert v; decide

theorem hexDigit_ne_newline (v : Nibble) : hexDigit v ≠ 0x0A := by
  revert v; decide

theorem hex_of_le (v : Byte) (h : v ≤ 0x0F) : hex v = .ok (hexDigit (lowNibble v)) := by
  revert v; decide

@[simp] theorem csum_nil : csum [] = 0 := rfl

theorem csum_append_byte (s : List Byte) (b : Byte) : csum (s ++ [b]) = csum s + b := by
  simp [csum]

theorem csum_cons (b : Byte) (s : List Byte) : csum (b :: s) = b + csum s := by
  have h : ∀ (s : List Byte) (a : Byte), s.foldl (fun a b => a + b) a = a + s.foldl (fun a b => a + b) 0 := by
    intro s
    induction s with
    | nil => intro a; simp
    | cons c s ih => intro a; simp only [List.foldl_cons]; rw [ih (a + c), ih (0 + c)]; simp [BitVec.add_assoc]
  rw [csum, csum, List.foldl_cons, h]
  simp

theorem csum_append (s t : List Byte) : csum (s ++ t) = csum s + csum t := by
  induction s with
  | nil => simp
  | cons b s ih => rw [List.cons_append, csum_cons, csum_cons, ih, BitVec.add_assoc]

/-- The OR of a low nibble into a byte whose low nibble is 0 adds the nibble to the sum (10_state.md R23). -/
theorem csum_orLast (s : List Byte) (v w : Nibble) :
    csum (orLast (s ++ [shiftedNibble w]) v) = csum (s ++ [shiftedNibble w]) + zextNibble v := by
  have h : ∀ v w : Nibble, shiftedNibble w ||| zextNibble v = shiftedNibble w + zextNibble v := by decide
  rw [orLast_append, csum_append_byte, csum_append_byte, h, BitVec.add_assoc]

theorem valid_iff (s : List Byte) : valid s = true ↔ s ≠ [] ∧ (csum s = 0x00 ∨ csum s = 0x55) := by
  simp [valid, List.length_pos_iff]

end Sys2Proof.Machine
end

