-- ==== Sys2Proof/Laws/State.lean ====
section
/-! SUPPORT. One lemma per field per update of the state. -/

namespace Sys2Proof.Machine

variable (s : State)

@[simp] theorem State.setDec_cfg (d : Decoder) : (s.setDec d).cfg = s.cfg := rfl
@[simp] theorem State.setDec_dec (d : Decoder) : (s.setDec d).dec = d := rfl
@[simp] theorem State.setDec_enc (d : Decoder) : (s.setDec d).enc = s.enc := rfl
@[simp] theorem State.setDec_pending (d : Decoder) : (s.setDec d).pending = s.pending := rfl
@[simp] theorem State.setDec_result (d : Decoder) : (s.setDec d).result = s.result := rfl
@[simp] theorem State.setDec_tx (d : Decoder) : (s.setDec d).tx = s.tx := rfl
@[simp] theorem State.setDec_draws (d : Decoder) : (s.setDec d).draws = s.draws := rfl

@[simp] theorem State.setEnc_cfg (e : Encoder) : (s.setEnc e).cfg = s.cfg := rfl
@[simp] theorem State.setEnc_dec (e : Encoder) : (s.setEnc e).dec = s.dec := rfl
@[simp] theorem State.setEnc_enc (e : Encoder) : (s.setEnc e).enc = e := rfl
@[simp] theorem State.setEnc_pending (e : Encoder) : (s.setEnc e).pending = s.pending := rfl
@[simp] theorem State.setEnc_result (e : Encoder) : (s.setEnc e).result = s.result := rfl
@[simp] theorem State.setEnc_tx (e : Encoder) : (s.setEnc e).tx = s.tx := rfl
@[simp] theorem State.setEnc_draws (e : Encoder) : (s.setEnc e).draws = s.draws := rfl

@[simp] theorem State.setResult_cfg (r : Result) : (s.setResult r).cfg = s.cfg := rfl
@[simp] theorem State.setResult_dec (r : Result) : (s.setResult r).dec = s.dec := rfl
@[simp] theorem State.setResult_enc (r : Result) : (s.setResult r).enc = s.enc := rfl
@[simp] theorem State.setResult_pending (r : Result) : (s.setResult r).pending = s.pending := rfl
@[simp] theorem State.setResult_result (r : Result) : (s.setResult r).result = r := rfl
@[simp] theorem State.setResult_tx (r : Result) : (s.setResult r).tx = s.tx := rfl
@[simp] theorem State.setResult_draws (r : Result) : (s.setResult r).draws = s.draws := rfl

@[simp] theorem State.emit_cfg (b : Byte) : (s.emit b).cfg = s.cfg := rfl
@[simp] theorem State.emit_dec (b : Byte) : (s.emit b).dec = s.dec := rfl
@[simp] theorem State.emit_enc (b : Byte) : (s.emit b).enc = s.enc := rfl
@[simp] theorem State.emit_pending (b : Byte) : (s.emit b).pending = s.pending := rfl
@[simp] theorem State.emit_result (b : Byte) : (s.emit b).result = s.result := rfl
@[simp] theorem State.emit_tx (b : Byte) : (s.emit b).tx = s.tx ++ [b] := rfl
@[simp] theorem State.emit_draws (b : Byte) : (s.emit b).draws = s.draws := rfl

@[simp] theorem State.fetch_cfg (rest : List Request) : (s.fetch rest).cfg = s.cfg := rfl
@[simp] theorem State.fetch_dec (rest : List Request) : (s.fetch rest).dec = s.dec := rfl
@[simp] theorem State.fetch_enc (rest : List Request) : (s.fetch rest).enc = s.enc := rfl
@[simp] theorem State.fetch_pending (rest : List Request) : (s.fetch rest).pending = rest := rfl
@[simp] theorem State.fetch_result (rest : List Request) : (s.fetch rest).result = s.result := rfl
@[simp] theorem State.fetch_tx (rest : List Request) : (s.fetch rest).tx = s.tx := rfl
@[simp] theorem State.fetch_draws (rest : List Request) : (s.fetch rest).draws = s.draws + 1 := rfl

@[simp] theorem State.resetBoth_cfg : s.resetBoth.cfg = s.cfg := rfl
@[simp] theorem State.resetBoth_dec : s.resetBoth.dec = s.dec.reset := rfl
@[simp] theorem State.resetBoth_enc : s.resetBoth.enc = Encoder.afterReset := rfl
@[simp] theorem State.resetBoth_pending : s.resetBoth.pending = s.pending := rfl
@[simp] theorem State.resetBoth_result : s.resetBoth.result = s.result := rfl
@[simp] theorem State.resetBoth_tx : s.resetBoth.tx = s.tx := rfl
@[simp] theorem State.resetBoth_draws : s.resetBoth.draws = s.draws := rfl

@[simp] theorem State.withFetchWord_cfg (nbits w : Nat) : (s.withFetchWord nbits w).cfg = s.cfg := rfl
@[simp] theorem State.withFetchWord_dec (nbits w : Nat) : (s.withFetchWord nbits w).dec = s.dec := rfl
@[simp] theorem State.withFetchWord_enc (nbits w : Nat) : (s.withFetchWord nbits w).enc = s.enc := rfl
@[simp] theorem State.withFetchWord_pending (nbits w : Nat) : (s.withFetchWord nbits w).pending = wordRequest nbits w :: s.pending := rfl
@[simp] theorem State.withFetchWord_result (nbits w : Nat) : (s.withFetchWord nbits w).result = s.result := rfl
@[simp] theorem State.withFetchWord_tx (nbits w : Nat) : (s.withFetchWord nbits w).tx = s.tx := rfl
@[simp] theorem State.withFetchWord_draws (nbits w : Nat) : (s.withFetchWord nbits w).draws = s.draws := rfl

@[simp] theorem State.push_cfg (c : Byte) : (s.push c).cfg = s.cfg := rfl
@[simp] theorem State.push_dec (c : Byte) : (s.push c).dec = (s.dec.push s.cfg c).1 := rfl
@[simp] theorem State.push_enc (c : Byte) : (s.push c).enc = s.enc := rfl
@[simp] theorem State.push_pending (c : Byte) : (s.push c).pending = s.pending := rfl
@[simp] theorem State.push_result (c : Byte) : (s.push c).result = Result.ofErr (s.dec.push s.cfg c).2 := rfl
@[simp] theorem State.push_tx (c : Byte) : (s.push c).tx = s.tx := rfl
@[simp] theorem State.push_draws (c : Byte) : (s.push c).draws = s.draws := rfl

@[simp] theorem State.encLoad_cfg (f : List Byte) : (s.encLoad f).cfg = s.cfg := rfl
@[simp] theorem State.encLoad_dec (f : List Byte) : (s.encLoad f).dec = s.dec := rfl
@[simp] theorem State.encLoad_enc (f : List Byte) : (s.encLoad f).enc = (s.enc.load s.cfg f).1 := rfl
@[simp] theorem State.encLoad_pending (f : List Byte) : (s.encLoad f).pending = s.pending := rfl
@[simp] theorem State.encLoad_result (f : List Byte) : (s.encLoad f).result = Result.ofErr (s.enc.load s.cfg f).2 := rfl
@[simp] theorem State.encLoad_tx (f : List Byte) : (s.encLoad f).tx = s.tx := rfl
@[simp] theorem State.encLoad_draws (f : List Byte) : (s.encLoad f).draws = s.draws := rfl

@[simp] theorem State.pushSlice_cfg (bs : List Byte) : (s.pushSlice bs).cfg = s.cfg := rfl
@[simp] theorem State.pushSlice_dec (bs : List Byte) : (s.pushSlice bs).dec = (Decoder.pushSlice s.cfg bs s.dec).1 := rfl
@[simp] theorem State.pushSlice_enc (bs : List Byte) : (s.pushSlice bs).enc = s.enc := rfl
@[simp] theorem State.pushSlice_pending (bs : List Byte) : (s.pushSlice bs).pending = s.pending := rfl
@[simp] theorem State.pushSlice_result (bs : List Byte) : (s.pushSlice bs).result = .consumed (Decoder.pushSlice s.cfg bs s.dec).2.1 (Decoder.pushSlice s.cfg bs s.dec).2.2 := rfl
@[simp] theorem State.pushSlice_tx (bs : List Byte) : (s.pushSlice bs).tx = s.tx := rfl
@[simp] theorem State.pushSlice_draws (bs : List Byte) : (s.pushSlice bs).draws = s.draws := rfl

@[simp] theorem State.decodeWire_cfg (w : List Byte) : (s.decodeWire w).cfg = s.cfg := rfl
@[simp] theorem State.decodeWire_dec (w : List Byte) : (s.decodeWire w).dec = (Decoder.pushSlice s.cfg w s.dec.reset).1 := rfl
@[simp] theorem State.decodeWire_enc (w : List Byte) : (s.decodeWire w).enc = Encoder.afterReset := rfl
@[simp] theorem State.decodeWire_pending (w : List Byte) : (s.decodeWire w).pending = s.pending := rfl
@[simp] theorem State.decodeWire_result (w : List Byte) : (s.decodeWire w).result = .wire (wireResult w (Decoder.pushSlice s.cfg w s.dec.reset)) := rfl
@[simp] theorem State.decodeWire_tx (w : List Byte) : (s.decodeWire w).tx = s.tx := rfl
@[simp] theorem State.decodeWire_draws (w : List Byte) : (s.decodeWire w).draws = s.draws := rfl

end Sys2Proof.Machine
end

