-- ==== Sys2Proof/Laws/Ops.lean ====
section
/-! SUPPORT. What each shared operation can do, said once: later proofs cite these and do not unfold. -/

namespace Sys2Proof.Machine

/-! ### PUSH -/

theorem Decoder.push_faulted (cfg : Config) (c : Byte) (d : Decoder) (h : d.ferr ≠ .none) :
    d.push cfg c = (d, none) := by
  simp [Decoder.push, h]

theorem Decoder.push_start (cfg : Config) (c : Byte) (d : Decoder) (hf : d.ferr = .none) (hs : d.state = .start) :
    d.push cfg c = d.pushStart cfg c := by
  simp [Decoder.push, hf, hs]

theorem Decoder.push_low (cfg : Config) (c : Byte) (d : Decoder) (hf : d.ferr = .none) (hs : d.state = .lowNibble) :
    d.push cfg c = d.pushLow c := by
  simp [Decoder.push, hf, hs]

theorem Decoder.push_high (cfg : Config) (c : Byte) (d : Decoder) (hf : d.ferr = .none)
    (hs : d.state = .highNibble) : d.push cfg c = d.pushHigh cfg c := by
  simp [Decoder.push, hf, hs]

theorem Decoder.push_text (cfg : Config) (c : Byte) (d : Decoder) (hf : d.ferr = .none) (hs : d.state = .text) :
    d.push cfg c = d.pushText cfg c := by
  simp [Decoder.push, hf, hs]

/-- Everything a PUSH can do: one case for each line of 42_frame_decoder.md R109's table that has its own effect. -/
theorem Decoder.push_cases (cfg : Config) (c : Byte) (d : Decoder) :
    (d.ferr ≠ .none ∧ d.push cfg c = (d, none)) ∨
    (d.ferr = .none ∧ d.state = .start ∧ c = 0x3A ∧ d.push cfg c = (d.openHex, none)) ∨
    (d.ferr = .none ∧ d.state = .start ∧ c ≠ 0x3A ∧ cfg.textEn = true ∧ d.push cfg c = (d.openText c, none)) ∨
    (d.ferr = .none ∧ d.state = .start ∧ c ≠ 0x3A ∧ cfg.textEn = false ∧ d.push cfg c = (d.dropByte, none)) ∨
    (∃ v, d.ferr = .none ∧ d.state = .lowNibble ∧ nibble c = .ok v ∧ d.push cfg c = (d.completeByte v, none)) ∨
    (d.ferr = .none ∧ (d.state = .lowNibble ∨ d.state = .highNibble ∧ c ≠ 0x0A) ∧ isHexDigit c = false ∧
      d.push cfg c = d.raise .invalidHexDigit c) ∨
    (d.ferr = .none ∧ d.state = .highNibble ∧ c = 0x0A ∧ d.push cfg c = (d.finish, none)) ∨
    (∃ v, d.ferr = .none ∧ d.state = .highNibble ∧ nibble c = .ok v ∧ d.full cfg = false ∧
      d.push cfg c = (d.startByte v, none)) ∨
    (d.ferr = .none ∧ d.state = .text ∧ d.full cfg = false ∧ d.push cfg c = (d.storeText c, none)) ∨
    (d.ferr = .none ∧ (d.state = .highNibble ∧ isHexDigit c = true ∨ d.state = .text) ∧ d.full cfg = true ∧
      d.push cfg c = d.raise .lengthMismatch c) := by
  by_cases hf : d.ferr = .none
  · cases hs : d.state with
    | start =>
      rw [Decoder.push_start cfg c d hf hs, Decoder.pushStart]
      by_cases hc : c = 0x3A
      · rw [if_pos hc]; simp_all
      · rw [if_neg hc]
        cases ht : cfg.textEn <;> simp_all
    | lowNibble =>
      rw [Decoder.push_low cfg c d hf hs, Decoder.pushLow]
      rcases nibble_cases c with ⟨v, hv, _⟩ | ⟨he, hx⟩
      · simp [hv, hf]
      · simp [he, hx, hf]
    | highNibble =>
      rw [Decoder.push_high cfg c d hf hs, Decoder.pushHigh]
      by_cases hc : c = 0x0A
      · rw [if_pos hc]; simp_all
      · rw [if_neg hc]
        rcases nibble_cases c with ⟨v, hv, hx⟩ | ⟨he, hx⟩
        · cases hu : d.full cfg <;> simp_all
        · simp_all
    | text =>
      rw [Decoder.push_text cfg c d hf hs, Decoder.pushText]
      cases hu : d.full cfg <;> simp [hf]
  · exact .inl ⟨hf, Decoder.push_faulted cfg c d hf⟩

/-! ### `push_slice` -/

@[simp] theorem Decoder.pushSlice_nil (cfg : Config) (d : Decoder) : Decoder.pushSlice cfg [] d = (d, 0, none) := rfl

/-- It stops after a byte that raises or completes. -/
theorem Decoder.pushSlice_cons_stop (cfg : Config) (c : Byte) (cs : List Byte) (d : Decoder)
    (h : (d.push cfg c).2.isSome = true ∨ (d.push cfg c).1.done = true) :
    Decoder.pushSlice cfg (c :: cs) d = ((d.push cfg c).1, 1, (d.push cfg c).2) := by
  rcases h with h | h <;> simp [Decoder.pushSlice, h]

/-- It goes on after any other byte. -/
theorem Decoder.pushSlice_cons_go (cfg : Config) (c : Byte) (cs : List Byte) (d : Decoder)
    (he : (d.push cfg c).2 = none) (hd : (d.push cfg c).1.done = false) :
    Decoder.pushSlice cfg (c :: cs) d =
      ((Decoder.pushSlice cfg cs (d.push cfg c).1).1, (Decoder.pushSlice cfg cs (d.push cfg c).1).2.1 + 1,
        (Decoder.pushSlice cfg cs (d.push cfg c).1).2.2) := by
  simp [Decoder.pushSlice, he, hd]

/-! ### The encoder -/

/-- Everything ENC_LOAD can do (43_frame_encoder.md R111). -/
theorem Encoder.load_cases (cfg : Config) (f : List Byte) (e : Encoder) :
    (loadError cfg f = none ∧ e.load cfg f = (⟨f, 0, true, .none⟩, none)) ∨
    (∃ err, loadError cfg f = some err ∧ (err.kind = .lengthMismatch ∨ err.kind = .encInvariant) ∧
      e.load cfg f = ({ e with tferr := err.kind, tact := false }, some err)) := by
  cases h : loadError cfg f with
  | none => exact .inl ⟨rfl, by simp [Encoder.load, h]⟩
  | some err =>
    refine .inr ⟨err, rfl, ?_, by simp [Encoder.load, h, Encoder.raise]⟩
    cases f with
    | nil => simp [loadError] at h; simp [← h]
    | cons id rest =>
      simp only [loadError] at h
      split at h
      · simp at h; simp [← h]
      · split at h
        · simp at h; simp [← h]
        · simp at h

/-- When a frame loads: it is not empty, fits, and its id has a one-digit spelling. -/
theorem loadError_none_iff (cfg : Config) (f : List Byte) :
    loadError cfg f = none ↔ ∃ id rest, f = id :: rest ∧ overCapacity cfg f.length = false ∧ id ≤ 0x0F := by
  cases f with
  | nil => simp [loadError]
  | cons id rest =>
    have hle : id ≤ 0x0F ↔ ¬ (0x0F#8 < id) := BitVec.not_lt.symm
    cases h : overCapacity cfg (id :: rest).length <;> by_cases hi : 0x0F#8 < id <;>
      simp_all [loadError]

/-- Everything ENC_NEXT can yield (43_frame_encoder.md R112), by place, for a frame it can spell. -/
theorem Encoder.nextByte_cases (e : Encoder) (id : Byte) (rest : List Byte) (hb : e.tbuf = id :: rest)
    (hid : id ≤ 0x0F) :
    (e.tpos = 0 ∧ e.nextByte = some 0x3A) ∨
    (e.tpos = 1 ∧ e.nextByte = some (hexDigit (lowNibble id))) ∨
    (∃ b, 2 ≤ e.tpos ∧ e.tpos < 2 * e.tlen ∧ readByte e.tbuf (e.tpos / 2) = some b ∧
      e.nextByte = some (if e.tpos % 2 = 0 then hexDigit (highNibble b) else hexDigit (lowNibble b))) ∨
    (2 * e.tlen ≤ e.tpos ∧ 2 ≤ e.tpos ∧ e.nextByte = some 0x0A) := by
  by_cases h0 : e.tpos = 0
  · exact .inl ⟨h0, by simp [Encoder.nextByte, h0]⟩
  · by_cases h1 : e.tpos = 1
    · exact .inr (.inl ⟨h1, by simp [Encoder.nextByte, h1, hb, readByte, hex_of_le id hid, Except.toOption]⟩)
    · by_cases h2 : e.tpos < 2 * e.tlen
      · have hlt : e.tpos / 2 < e.tbuf.length := by rw [Encoder.tlen] at h2; omega
        have hr : readByte e.tbuf (e.tpos / 2) = some e.tbuf[e.tpos / 2] := List.getElem?_eq_getElem hlt
        exact .inr (.inr (.inl ⟨_, by omega, h2, hr, by simp [Encoder.nextByte, h0, h1, h2, hr]⟩))
      · exact .inr (.inr (.inr ⟨by omega, by omega, by simp [Encoder.nextByte, h0, h1, h2]⟩))

theorem spell_length (id : Byte) (rest : List Byte) : (spell (id :: rest)).length = 2 * (rest.length + 1) + 1 := by
  have h : (rest.flatMap twoDigits).length = 2 * rest.length := by
    induction rest with
    | nil => rfl
    | cons b rest ih => simp [twoDigits, ih]; omega
  simp [spell, h]; omega

/-- What `encode` answers (43_frame_encoder.md R113). -/
theorem encodeFrame_cases (cfg : Config) (f : List Byte) :
    (loadError cfg f = none ∧ encodeFrame cfg f = .ok (spell f)) ∨
    (∃ e, loadError cfg f = some e ∧ encodeFrame cfg f = .error e) := by
  cases h : loadError cfg f <;> simp [encodeFrame, h]

/-! ### The parser -/

theorem parse_invalid (cfg : Config) (f : List Byte) (h : valid f = false) :
    parse cfg f = failed .checksumInvalid := by
  simp [parse, h]

theorem parse_valid (cfg : Config) (id : Byte) (rest : List Byte) (h : valid (id :: rest) = true) :
    parse cfg (id :: rest) = parsePayload cfg id rest.dropLast := by
  simp [parse, h, payload]

end Sys2Proof.Machine
end

