-- ==== Sys2Proof/Laws/Exec.lean ====
section
/-! SUPPORT. What `exec` can do, said once, and when a step runs what. -/

namespace Sys2Proof.Machine

/-- Everything an operation can do to the machine. -/
theorem exec_cases (i : Instr) (s : State) :
    (∃ r, exec i s = .next (s.setResult r)) ∨
    (∃ c, exec i s = .next (s.push c)) ∨
    (exec i s = .next (s.resetBoth.setResult .none) ∧ i = .reset) ∨
    (exec i s = .next ((s.setDec s.dec.clear).setResult .none) ∧ i = .clear) ∨
    (∃ f, exec i s = .next (s.encLoad f)) ∨
    (i = .encNext ∧ s.enc.tact = true ∧ ∃ b, s.enc.nextByte = some b ∧
      exec i s = .next (((s.setEnc s.enc.advance).emit b).setResult (.byte b))) ∨
    (i = .encNext ∧ s.enc.tact = true ∧ s.enc.nextByte = none ∧ exec i s = .fault .encoderInvariant) ∨
    (∃ bs, exec i s = .next (s.pushSlice bs) ∧ i = .pushSlice bs) ∨
    (∃ w, exec i s = .next (s.decodeWire w) ∧ i = .decode w) := by
  cases i with
  | reset => exact .inr (.inr (.inl ⟨rfl, rfl⟩))
  | clear => exact .inr (.inr (.inr (.inl ⟨rfl, rfl⟩)))
  | encLoad f => exact .inr (.inr (.inr (.inr (.inl ⟨f, rfl⟩))))
  | send cmd => exact .inr (.inr (.inr (.inr (.inl ⟨build cmd, rfl⟩))))
  | pushSlice bs => exact .inr (.inr (.inr (.inr (.inr (.inr (.inr (.inl ⟨bs, rfl, rfl⟩)))))))
  | decode w => exact .inr (.inr (.inr (.inr (.inr (.inr (.inr (.inr ⟨w, rfl, rfl⟩)))))))
  | encNext =>
    cases ht : s.enc.tact with
    | false => exact .inl ⟨.none, by simp [exec, execEncNext, ht]⟩
    | true =>
      cases hb : s.enc.nextByte with
      | some b =>
        exact .inr (.inr (.inr (.inr (.inr (.inl ⟨rfl, rfl, b, rfl, by simp [exec, execEncNext, ht, hb]⟩)))))
      | none => exact .inr (.inr (.inr (.inr (.inr (.inr (.inl ⟨rfl, rfl, rfl, by simp [exec, execEncNext, ht, hb]⟩))))))
  | _ => first
    | exact .inl ⟨_, rfl⟩
    | exact .inr (.inl ⟨_, rfl⟩)

/-- `exec` has a meaning for every operation: it refuses none. -/
theorem exec_ne_refused (i : Instr) (s : State) (r : Refusal) : exec i s ≠ .refused r := by
  intro h
  rcases exec_cases i s with ⟨_, e⟩ | ⟨_, e⟩ | ⟨e, _⟩ | ⟨e, _⟩ | ⟨_, e⟩ | ⟨_, _, _, _, e⟩ | ⟨_, _, _, e⟩ |
      ⟨_, e, _⟩ | ⟨_, e, _⟩ <;>
    simp [e] at h

/-- Nor does a clock edge. -/
theorem execEdge_ne_refused (p : PortIn) (s : State) (r : Refusal) : execEdge p s ≠ .refused r := by
  intro h
  unfold execEdge execBoth at h
  split at h
  · split at h
    · split at h
      · cases h
      · cases h
      · exact exec_ne_refused _ _ _ ‹_›
    · cases h
    · exact exec_ne_refused _ _ _ ‹_›
  · exact exec_ne_refused _ _ _ h
  · exact exec_ne_refused _ _ _ h
  · cases h

theorem step_idle (s : State) (h : s.pending = []) : step s = .next s := by
  simp [step, h]

theorem step_request (s : State) (r : Request) (rest : List Request) (h : s.pending = r :: rest) :
    step s = execRequest r (s.fetch rest) := by
  simp [step, h]

/-- What an operation's bytes run. -/
theorem execOp_of_decode (bytes : List Byte) (i : Instr) (s : State) (hd : decode bytes = .ok i)
    (hw : i.wellFormed s.cfg = true) : execOp bytes s = exec i s := by
  simp [execOp, fetchInstr, hd, hw]

end Sys2Proof.Machine
end

