-- ==== Sys2Proof/Laws/Memory.lean ====
section
/-! SUPPORT. The two buffers seen as addressed cells are in canonical form in every state, and so every operation
keeps it; equal cells are equal buffers (log 8). -/

namespace Sys2Proof.Machine

theorem Memory.cells_wf (buf : List Byte) : Memory.wf (Memory.cells buf) = true := by
  simp [Memory.wf, Memory.cells, Function.comp_def, List.zipIdx_eq_zip_range', List.range_eq_range',
    List.map_snd_zip]

/-- What an address reads as is its cell. -/
theorem Memory.lookup_cells (buf : List Byte) (i : Nat) :
    (Memory.cells buf)[i]? = (readByte buf i).map (fun b => (i, b)) := by
  simp [Memory.cells, readByte, Function.comp_def]

theorem Memory.cells_injective (a b : List Byte) (h : Memory.cells a = Memory.cells b) : a = b := by
  apply List.ext_getElem?
  intro i
  have hi := congrArg (fun l => l[i]?) h
  simp only [Memory.lookup_cells, readByte] at hi
  cases ha : a[i]? <;> cases hb : b[i]? <;> simp_all

/-- The canonical form after every operation on a buffer. -/
theorem Memory.append_wf (buf : List Byte) (v : Byte) : Memory.wf (Memory.cells (appendByte buf v)) = true :=
  Memory.cells_wf _

theorem Memory.orLast_wf (buf : List Byte) (v : Nibble) : Memory.wf (Memory.cells (orLast buf v)) = true :=
  Memory.cells_wf _

theorem Memory.reset_wf :
    Memory.wf (Memory.cells State.reset.dec.rbuf) = true ∧ Memory.wf (Memory.cells State.reset.enc.tbuf) = true :=
  ⟨Memory.cells_wf _, Memory.cells_wf _⟩

end Sys2Proof.Machine
end

