-- ==== Sys2Proof/Laws/PerInstr.lean ====
section
/-! SUPPORT. Statements about operations as data, one lemma per constructor.

`Qualified`: an operation's own encoding names its format, so it is never mistaken for a bare word of the table. -/

namespace Sys2Proof.Laws.Qualified

/-- The encoding has at least the row's byte and the format byte. -/
def Statement (i : Instr) : Prop := 2 ≤ (encode i).length

theorem pushColon : Statement .pushColon := Nat.le_add_left 2 _
theorem pushLf : Statement .pushLf := Nat.le_add_left 2 _
theorem pushDigit0 : Statement .pushDigit0 := Nat.le_add_left 2 _
theorem pushDigit1 : Statement .pushDigit1 := Nat.le_add_left 2 _
theorem pushDigit2 : Statement .pushDigit2 := Nat.le_add_left 2 _
theorem pushDigit3 : Statement .pushDigit3 := Nat.le_add_left 2 _
theorem pushDigit4 : Statement .pushDigit4 := Nat.le_add_left 2 _
theorem pushDigit5 : Statement .pushDigit5 := Nat.le_add_left 2 _
theorem pushDigit6 : Statement .pushDigit6 := Nat.le_add_left 2 _
theorem pushDigit7 : Statement .pushDigit7 := Nat.le_add_left 2 _
theorem pushDigit8 : Statement .pushDigit8 := Nat.le_add_left 2 _
theorem pushDigit9 : Statement .pushDigit9 := Nat.le_add_left 2 _
theorem pushDigitA : Statement .pushDigitA := Nat.le_add_left 2 _
theorem pushDigitB : Statement .pushDigitB := Nat.le_add_left 2 _
theorem pushDigitC : Statement .pushDigitC := Nat.le_add_left 2 _
theorem pushDigitD : Statement .pushDigitD := Nat.le_add_left 2 _
theorem pushDigitE : Statement .pushDigitE := Nat.le_add_left 2 _
theorem pushDigitF : Statement .pushDigitF := Nat.le_add_left 2 _
theorem pushDigitLcA : Statement .pushDigitLcA := Nat.le_add_left 2 _
theorem pushDigitLcB : Statement .pushDigitLcB := Nat.le_add_left 2 _
theorem pushDigitLcC : Statement .pushDigitLcC := Nat.le_add_left 2 _
theorem pushDigitLcD : Statement .pushDigitLcD := Nat.le_add_left 2 _
theorem pushDigitLcE : Statement .pushDigitLcE := Nat.le_add_left 2 _
theorem pushDigitLcF : Statement .pushDigitLcF := Nat.le_add_left 2 _
theorem pushOther (c : Byte) : Statement (.pushOther c) := Nat.le_add_left 2 _
theorem cmdBoot : Statement .cmdBoot := Nat.le_add_left 2 _
theorem cmdPing : Statement .cmdPing := Nat.le_add_left 2 _
theorem cmdVersion : Statement .cmdVersion := Nat.le_add_left 2 _
theorem cmdProduct : Statement .cmdProduct := Nat.le_add_left 2 _
theorem cmdRestart : Statement .cmdRestart := Nat.le_add_left 2 _
theorem cmdGet (item : Code) (flags : Flags) : Statement (.cmdGet item flags) := Nat.le_add_left 2 _
theorem cmdSet (item : Code) (flags : Flags) (value : Value) : Statement (.cmdSet item flags value) := Nat.le_add_left 2 _
theorem cmdAsync (item : Code) (flags : Flags) (value : Value) : Statement (.cmdAsync item flags value) := Nat.le_add_left 2 _
theorem rspDone (rest : List Byte) : Statement (.rspDone rest) := Nat.le_add_left 2 _
theorem rspUnknown (rest : List Byte) : Statement (.rspUnknown rest) := Nat.le_add_left 2 _
theorem rspError (rest : List Byte) : Statement (.rspError rest) := Nat.le_add_left 2 _
theorem rspPing (rest : List Byte) : Statement (.rspPing rest) := Nat.le_add_left 2 _
theorem rspGet (rest : List Byte) : Statement (.rspGet rest) := Nat.le_add_left 2 _
theorem rspSet (rest : List Byte) : Statement (.rspSet rest) := Nat.le_add_left 2 _
theorem rspAsync (rest : List Byte) : Statement (.rspAsync rest) := Nat.le_add_left 2 _
theorem rspUnassigned (code : Byte) (rest : List Byte) : Statement (.rspUnassigned code rest) := Nat.le_add_left 2 _
theorem reset : Statement .reset := Nat.le_add_left 2 _
theorem clear : Statement .clear := Nat.le_add_left 2 _
theorem push (c : Byte) : Statement (.push c) := Nat.le_add_left 2 _
theorem encLoad (f : List Byte) : Statement (.encLoad f) := Nat.le_add_left 2 _
theorem encNext : Statement .encNext := Nat.le_add_left 2 _
theorem nibble (b : Byte) : Statement (.nibble b) := Nat.le_add_left 2 _
theorem hex (v : Byte) : Statement (.hex v) := Nat.le_add_left 2 _
theorem csum (s : List Byte) : Statement (.csum s) := Nat.le_add_left 2 _
theorem valid (s : List Byte) : Statement (.valid s) := Nat.le_add_left 2 _
theorem mkcsum (s : List Byte) : Statement (.mkcsum s) := Nat.le_add_left 2 _
theorem encode (f : List Byte) : Statement (.encode f) := Nat.le_add_left 2 _
theorem build (cmd : Command) : Statement (.build cmd) := Nat.le_add_left 2 _
theorem flagbyte (flags : Flags) : Statement (.flagbyte flags) := Nat.le_add_left 2 _
theorem venc (value : Value) : Statement (.venc value) := Nat.le_add_left 2 _
theorem send (cmd : Command) : Statement (.send cmd) := Nat.le_add_left 2 _
theorem parse (f : List Byte) : Statement (.parse f) := Nat.le_add_left 2 _
theorem guess (v : List Byte) : Statement (.guess v) := Nat.le_add_left 2 _
theorem pushSlice (s : List Byte) : Statement (.pushSlice s) := Nat.le_add_left 2 _
theorem decode (w : List Byte) : Statement (.decode w) := Nat.le_add_left 2 _
theorem done : Statement .done := Nat.le_add_left 2 _
theorem frame : Statement .frame := Nat.le_add_left 2 _

end Sys2Proof.Laws.Qualified
end

