-- ==== Sys2Proof/Tests/Slice0.lean ====
section
/-! SUPPORT. Tests and witnesses.

The words of the decode tests are written out from 30_encoding.md R54, R55, R59, R60, R76 and spec/opcode_table.json;
format, FUNC and operand bytes are log 2's. Expected results of the single steps are those of
spec/95_test_vectors.md (its table or program is named) or of the rule named. -/

open Sys2Proof Sys2Proof.Machine Sys2Proof.Claims

namespace Sys2Proof.Tests

/-! ### Helpers -/

def stateOf : Host.Outcome State Fault Refusal → Option State
  | .next t => some t
  | .fault _ => none
  | .refused _ => none

def resultOf (o : Host.Outcome State Fault Refusal) : Option Result := (stateOf o).map State.result

def decOf (o : Host.Outcome State Fault Refusal) : Option Decoder := (stateOf o).map State.dec

def encOf (o : Host.Outcome State Fault Refusal) : Option Encoder := (stateOf o).map State.enc

def refusalOf : Host.Outcome State Fault Refusal → Option Refusal
  | .next _ => none
  | .fault _ => none
  | .refused r => some r

def decoded (bytes : List Byte) : Option Instr := (Sys2Proof.decode bytes).toOption

def noFlags : Flags := ⟨false, false, false⟩

/-- The parameters of 95_test_vectors.md, with BUF_CAP = 11. -/
def cap11 : Config := { Config.vectors with bufCap := some 11 }

def hexOnly : Config := { Config.vectors with textEn := false }

def at11 (d : Decoder) : State := { State.reset with cfg := cap11, dec := d }

def on (d : Decoder) : State := { State.reset with dec := d }

/-- After `:51`. -/
def low : Decoder := ⟨.lowNibble, [0x05, 0x10], .hex, .none, 0x00⟩

/-- After `:5`. -/
def high : Decoder := ⟨.highNibble, [0x05], .hex, .none, 0x00⟩

/-- After `:0` and ten times `11`. -/
def highFull : Decoder :=
  ⟨.highNibble, [0x00, 0x11, 0x11, 0x11, 0x11, 0x11, 0x11, 0x11, 0x11, 0x11, 0x11], .hex, .none, 0x00⟩

def text : Decoder := ⟨.text, [0x0D], .text, .none, 0x00⟩

/-- After MARKER. -/
def textMarked : Decoder := ⟨.text, markerBytes, .text, .none, 0x00⟩

def textFull : Decoder := ⟨.text, 0x41 :: markerBytes, .text, .none, 0x00⟩

/-- After `:5G`. -/
def faulted : Decoder := ⟨.highNibble, [0x05], .hex, .invalidHexDigit, 0x47⟩

def loaded (tpos : Nat) : Encoder := ⟨[0x01, 0x54], tpos, true, .none⟩

def sending (tpos : Nat) : State := { State.reset with enc := loaded tpos }

/-! ### WellFormed refuses each kind of ill-formed operation -/

theorem test_wellFormed_other_is_no_other_class :
    (∀ c ∈ [(0x3A : Byte), 0x0A, 0x30, 0x39, 0x41, 0x46, 0x61, 0x66],
      (Instr.pushOther c).wellFormed Config.vectors = false) ∧
    (∀ c ∈ [(0x2F : Byte), 0x3B, 0x40, 0x47, 0x60, 0x67, 0x0D, 0x00, 0xFF],
      (Instr.pushOther c).wellFormed Config.vectors = true) := by decide

theorem test_wellFormed_unassigned_is_not_assigned :
    (∀ c ∈ responseCodes, (Instr.rspUnassigned c []).wellFormed Config.vectors = false) ∧
    (Instr.rspUnassigned 0x06 []).wellFormed Config.vectors = true := by decide

theorem test_wellFormed_signed_ranges :
    (Instr.venc (.i8 128)).wellFormed Config.vectors = false ∧
    (Instr.venc (.i8 (-129))).wellFormed Config.vectors = false ∧
    (Instr.venc (.i8 (-128))).wellFormed Config.vectors = true ∧
    (Instr.venc (.i16 32768)).wellFormed Config.vectors = false ∧
    (Instr.venc (.i16 (-32769))).wellFormed Config.vectors = false ∧
    (Instr.venc (.i32 2147483648)).wellFormed Config.vectors = false ∧
    (Instr.venc (.i32 (-2147483649))).wellFormed Config.vectors = false ∧
    (Instr.venc (.i32 2147483647)).wellFormed Config.vectors = true := by decide

/-- R130, in every operation that names an item. -/
theorem test_wellFormed_items_are_members :
    (Instr.cmdGet 0x1234 noFlags).wellFormed Config.vectors = false ∧
    (Instr.cmdSet 0x1234 noFlags .empty).wellFormed Config.vectors = false ∧
    (Instr.cmdAsync 0x1234 noFlags .empty).wellFormed Config.vectors = false ∧
    (Instr.build (.get 0x1234 noFlags)).wellFormed Config.vectors = false ∧
    (Instr.build (.set 0x1234 noFlags .empty)).wellFormed Config.vectors = false ∧
    (Instr.send (.async 0x1234 noFlags .empty)).wellFormed Config.vectors = false ∧
    (Instr.cmdSet 0xEDF0 noFlags (.i8 200)).wellFormed Config.vectors = false ∧
    (Instr.cmdGet 0xEDF0 noFlags).wellFormed Config.vectors = true := by decide

/-! ### Decoding: every constructor, by family -/

/-- RXBYTE: R54, R55. -/
theorem test_decode_rxbyte :
    decoded [0x3A, 1] = some .pushColon ∧ decoded [0x0A, 1] = some .pushLf ∧
    decoded [0x30, 1] = some .pushDigit0 ∧ decoded [0x31, 1] = some .pushDigit1 ∧
    decoded [0x32, 1] = some .pushDigit2 ∧ decoded [0x33, 1] = some .pushDigit3 ∧
    decoded [0x34, 1] = some .pushDigit4 ∧ decoded [0x35, 1] = some .pushDigit5 ∧
    decoded [0x36, 1] = some .pushDigit6 ∧ decoded [0x37, 1] = some .pushDigit7 ∧
    decoded [0x38, 1] = some .pushDigit8 ∧ decoded [0x39, 1] = some .pushDigit9 ∧
    decoded [0x41, 1] = some .pushDigitA ∧ decoded [0x42, 1] = some .pushDigitB ∧
    decoded [0x43, 1] = some .pushDigitC ∧ decoded [0x44, 1] = some .pushDigitD ∧
    decoded [0x45, 1] = some .pushDigitE ∧ decoded [0x46, 1] = some .pushDigitF ∧
    decoded [0x61, 1] = some .pushDigitLcA ∧ decoded [0x62, 1] = some .pushDigitLcB ∧
    decoded [0x63, 1] = some .pushDigitLcC ∧ decoded [0x64, 1] = some .pushDigitLcD ∧
    decoded [0x65, 1] = some .pushDigitLcE ∧ decoded [0x66, 1] = some .pushDigitLcF ∧
    decoded [0x67, 1] = some (.pushOther 0x67) ∧ decoded [0x60, 1] = some (.pushOther 0x60) := by decide

/-- CMD: R57, R59. -/
theorem test_decode_cmd :
    decoded [0x00, 2] = some .cmdBoot ∧ decoded [0x01, 2] = some .cmdPing ∧
    decoded [0x03, 2] = some .cmdVersion ∧ decoded [0x04, 2] = some .cmdProduct ∧
    decoded [0x06, 2] = some .cmdRestart ∧
    decoded [0x07, 2, 0xF0, 0xED, 0x05] = some (.cmdGet 0xEDF0 ⟨true, false, true⟩) ∧
    decoded [0x08, 2, 0xF0, 0xED, 0x00, 3, 0x64, 0x00] = some (.cmdSet 0xEDF0 noFlags (.u16 100)) ∧
    decoded [0x0A, 2, 0x01, 0x02, 0x02, 4, 0xFE, 0xFF] = some (.cmdAsync 0x0201 ⟨false, true, false⟩ (.i16 (-2))) := by
  decide

/-- RSP: R60, R66. -/
theorem test_decode_rsp :
    decoded [0x01, 3, 0x54] = some (.rspDone [0x54]) ∧ decoded [0x03, 3, 0x52] = some (.rspUnknown [0x52]) ∧
    decoded [0x04, 3, 0x02, 0x4F] = some (.rspError [0x02, 0x4F]) ∧
    decoded [0x05, 3, 0x16, 0x41, 0xF9] = some (.rspPing [0x16, 0x41, 0xF9]) ∧
    decoded [0x07, 3] = some (.rspGet []) ∧ decoded [0x08, 3] = some (.rspSet []) ∧
    decoded [0x0A, 3, 0x43] = some (.rspAsync [0x43]) ∧
    decoded [0x06, 3, 0x4F] = some (.rspUnassigned 0x06 [0x4F]) ∧
    decoded [0xFF, 3] = some (.rspUnassigned 0xFF []) := by decide

/-- EVENT: R76, with both values of each strobe that is not looked at. -/
theorem test_decode_event :
    decoded [0x04, 4] = some .reset ∧ decoded [0x07, 4] = some .reset ∧ decoded [0x04, 5] = some .reset ∧
    decoded [0x02, 4] = some .clear ∧ decoded [0x03, 4] = some .clear ∧
    decoded [0x01, 4, 0x35] = some (.push 0x35) ∧
    decoded [0x02, 5, 0x01, 0x54] = some (.encLoad [0x01, 0x54]) ∧ decoded [0x03, 5] = some (.encLoad []) ∧
    decoded [0x01, 5] = some .encNext := by decide

/-- FUNC: the rows in the table's order. -/
theorem test_decode_func :
    decoded [0, 6, 0x46] = some (.nibble 0x46) ∧ decoded [1, 6, 0x0D] = some (.hex 0x0D) ∧
    decoded [2, 6, 0xFF, 0x01] = some (.csum [0xFF, 0x01]) ∧ decoded [3, 6] = some (.valid []) ∧
    decoded [4, 6, 0x01] = some (.mkcsum [0x01]) ∧ decoded [5, 6, 0x01, 0x54] = some (.encode [0x01, 0x54]) ∧
    decoded [6, 6, 0x01] = some (.build .ping) ∧ decoded [7, 6, 0x06] = some (.flagbyte ⟨false, true, true⟩) ∧
    decoded [8, 6, 2, 0xFF] = some (.venc (.i8 (-1))) ∧
    decoded [9, 6, 0x07, 0xF0, 0xED, 0x00] = some (.send (.get 0xEDF0 noFlags)) ∧
    decoded [10, 6, 0x01, 0x54] = some (.parse [0x01, 0x54]) ∧ decoded [11, 6, 0x05] = some (.guess [0x05]) ∧
    decoded [12, 6, 0x3A] = some (.pushSlice [0x3A]) ∧ decoded [13, 6, 0x3A] = some (.decode [0x3A]) ∧
    decoded [14, 6] = some .done ∧ decoded [15, 6] = some .frame := by decide

/-- Refused by name: no event (R76), an unassigned command code (R67), reserved flag bits (R61), a wrong shape. -/
theorem test_decode_refuses :
    Sys2Proof.decode [] = .error .emptyRequest ∧ Sys2Proof.decode [0x00, 4] = .error (.noEvent 0x00) ∧
    Sys2Proof.decode [0x00, 5] = .error (.noEvent 0x00) ∧
    Sys2Proof.decode [0x02, 2] = .error (.unassignedCommand 0x02) ∧
    Sys2Proof.decode [0x07, 2, 0xF0, 0xED, 0x08] = .error (.reservedFlagsOperand 0x08) ∧
    Sys2Proof.decode [16, 6] = .error (.unknownFunction 16) ∧
    Sys2Proof.decode [0x3A, 7] = .error (.unknownFormat 7) ∧
    Sys2Proof.decode [0x3A, 1, 0x00] = .error .badOperands := by decide

/-- Bare words of the table (log 3): match and mask of RXBYTE, CMD and RSP rows; a row without bits has none. -/
theorem test_decodeTableWord :
    decodeTableWord 8 0x3A = some .pushColon ∧ decodeTableWord 8 0x66 = some .pushDigitLcF ∧
    decodeTableWord 8 0x06 = some .cmdRestart ∧ decodeTableWord 8 0x05 = some (.rspPing []) ∧
    decodeTableWord 8 0x80 = some (.pushOther 0x80) ∧ decodeTableWord 0 0 = none := by decide

/-! ### Steps from reset, and single steps -/

theorem test_step_runs_the_word :
    decOf (step (State.reset.withFetchWord 8 0x3A)) = some ⟨.lowNibble, [0x00], .hex, .none, 0x00⟩ ∧
    resultOf (step (State.reset.withFetchWord 8 0x01)) = some (.bytes [0x01, 0x54]) := by decide

theorem test_step_refuses_an_item_that_is_no_member :
    refusalOf (step (State.reset.withFetchWord 8 0x07)) = some (.illFormed (.cmdGet 0 noFlags)) := by decide

/-- Section 2.3, rows 5, 8, 12, 14, 17: the last PUSH of each. -/
theorem test_push_lf_in_lowNibble_raises :
    decOf (exec .pushLf (on low)) = some { low with ferr := .invalidHexDigit, ebyte := 0x0A } := by decide

theorem test_push_other_in_highNibble_raises :
    decOf (exec (.pushOther 0x47) (on high)) = some faulted := by decide

theorem test_push_digit1_on_a_full_buffer_raises :
    resultOf (exec .pushDigit1 (at11 highFull)) = some (.err ⟨.lengthMismatch, some 0x31⟩) := by decide

theorem test_push_nonDigit_on_a_full_buffer_is_invalid :
    resultOf (exec (.push 0x47) (at11 highFull)) = some (.err ⟨.invalidHexDigit, some 0x47⟩) := by decide

theorem test_push_colon_after_marker_is_the_checksum_byte :
    decOf (exec .pushColon (on textMarked)) = some ⟨.start, markerBytes ++ [0x3A], .text, .none, 0x00⟩ := by decide

/-- R94's and R97's examples, and the same with a lower-case digit. -/
theorem test_push_digits :
    decOf (exec .pushDigit6 (on low)) = some ⟨.highNibble, [0x05, 0x16], .hex, .none, 0x00⟩ ∧
    decOf (exec .pushDigit1 (on high)) = some ⟨.lowNibble, [0x05, 0x10], .hex, .none, 0x00⟩ ∧
    decOf (exec .pushDigitLcE (on high)) = some ⟨.lowNibble, [0x05, 0xE0], .hex, .none, 0x00⟩ ∧
    decOf (exec .pushDigitF (on low)) = some ⟨.highNibble, [0x05, 0x1F], .hex, .none, 0x00⟩ := by decide

/-- R93's example. -/
theorem test_push_x_in_the_hex_only_block_is_dropped :
    decOf (exec (.push 0x78) { State.reset with cfg := hexOnly }) = some Decoder.afterReset := by decide

/-- Section 2.4. -/
theorem test_fault_is_kept_and_cleared :
    decOf (exec .pushDigit1 (on faulted)) = some faulted ∧
    decOf (exec .clear (on faulted)) = some Decoder.afterReset := by decide

/-- CLEAR keeps `fmt`, RESET does not (R100, R101). -/
theorem test_clear_and_reset_fmt :
    decOf (exec .clear (on text)) = some { Decoder.afterReset with fmt := .text } ∧
    decOf (exec .reset (on text)) = some Decoder.afterReset := by decide

/-- Section 2.3, rows 1, 3, 8, 11, 15, 16, 24. -/
theorem test_decode_strings :
    resultOf (exec (.decode [0x3A, 0x30, 0x0A]) State.reset) = some (.wire (.ok [0x00])) ∧
    resultOf (exec (.decode [0x3A, 0x37, 0x66, 0x30, 0x65, 0x64, 0x30, 0x30, 0x37, 0x31, 0x0A]) State.reset)
      = some (.wire (.ok [0x07, 0xF0, 0xED, 0x00, 0x71])) ∧
    resultOf (exec (.decode [0x3A, 0x35, 0x47, 0x31]) State.reset)
      = some (.wire (.err ⟨.invalidHexDigit, some 0x47⟩)) ∧
    decOf (exec (.decode [0x3A, 0x31, 0x35]) State.reset) = some ⟨.lowNibble, [0x01, 0x50], .hex, .none, 0x00⟩ ∧
    resultOf (exec (.decode [0x78, 0x3A, 0x31, 0x35, 0x34, 0x0A]) State.reset) = some (.wire .incomplete) ∧
    resultOf (exec (.decode [0x78, 0x3A, 0x31, 0x35, 0x34, 0x0A]) { State.reset with cfg := hexOnly })
      = some (.wire (.ok [0x01, 0x54])) ∧
    resultOf (exec (.decode (0x0A :: markerBytes ++ [0x5A])) State.reset)
      = some (.wire (.ok (0x0A :: markerBytes ++ [0x5A]))) := by decide

/-- R104: bytes after the stopping point are not consumed. -/
theorem test_pushSlice_stops :
    resultOf (exec (.pushSlice [0x3A, 0x31, 0x0A, 0x3A]) State.reset) = some (.consumed 3 none) ∧
    resultOf (exec (.pushSlice [0x3A, 0x35, 0x47, 0x31]) State.reset)
      = some (.consumed 3 (some ⟨.invalidHexDigit, some 0x47⟩)) := by decide

/-- Section 2.5. -/
theorem test_encLoad_errors :
    encOf (exec (.encLoad [0x10, 0x45]) (sending 1)) = some ⟨[0x01, 0x54], 1, false, .encInvariant⟩ ∧
    resultOf (exec (.encLoad (List.replicate 12 0x10)) (at11 high)) = some (.err ⟨.lengthMismatch, none⟩) := by decide

/-- R112's example: the five bytes of `01 54`, then `none`. -/
theorem test_encNext_sequence :
    resultOf (exec .encNext (sending 0)) = some (.byte 0x3A) ∧ resultOf (exec .encNext (sending 1)) = some (.byte 0x31) ∧
    resultOf (exec .encNext (sending 2)) = some (.byte 0x35) ∧ resultOf (exec .encNext (sending 3)) = some (.byte 0x34) ∧
    resultOf (exec .encNext (sending 4)) = some (.byte 0x0A) ∧
    encOf (exec .encNext (sending 4)) = some ⟨[0x01, 0x54], 5, false, .none⟩ ∧
    resultOf (exec .encNext State.reset) = some .none := by decide

/-- Sections 2.1, 2.2. -/
theorem test_nibble_hex_csum :
    resultOf (exec (.nibble 0x61) State.reset) = some (.nibble 10) ∧
    resultOf (exec (.nibble 0x60) State.reset) = some (.err ⟨.invalidHexDigit, some 0x60⟩) ∧
    resultOf (exec (.hex 10) State.reset) = some (.byte 0x41) ∧
    resultOf (exec (.hex 16) State.reset) = some (.err ⟨.invalidHexDigit, some 0x10⟩) ∧
    resultOf (exec (.csum [0xFF, 0xFF]) State.reset) = some (.byte 0xFE) ∧
    resultOf (exec (.valid []) State.reset) = some (.bool false) ∧
    resultOf (exec (.valid [0x80, 0x80]) State.reset) = some (.bool true) ∧
    resultOf (exec (.mkcsum [0x56]) State.reset) = some (.byte 0xFF) := by decide

/-- Section 2.5's `encode`, and section 2.6. -/
theorem test_encode_build_venc :
    resultOf (exec (.encode [0x01, 0xAB]) State.reset) = some (.bytes [0x3A, 0x31, 0x41, 0x42, 0x0A]) ∧
    resultOf (exec (.cmdGet 0xEDF0 ⟨true, false, false⟩) State.reset)
      = some (.bytes [0x07, 0xF0, 0xED, 0x01, 0x70]) ∧
    resultOf (exec (.cmdSet 0xEDF0 noFlags (.i16 (-2))) State.reset)
      = some (.bytes [0x08, 0xF0, 0xED, 0x00, 0xFE, 0xFF, 0x73]) ∧
    resultOf (exec (.build (.async 0x0201 noFlags (.u8 5))) State.reset)
      = some (.bytes [0x0A, 0x01, 0x02, 0x00, 0x05, 0x43]) ∧
    resultOf (exec (.venc (.u32 0x12345678)) State.reset) = some (.bytes [0x78, 0x56, 0x34, 0x12]) ∧
    resultOf (exec (.venc (.i8 (-128))) State.reset) = some (.bytes [0x80]) ∧
    encOf (exec (.send .ping) State.reset) = some (loaded 0) := by decide

/-- Section 2.7, rows 5, 6, 8, 10, 16, 20, 21, 23, 27, and fixtures of section 1.3. -/
theorem test_parse_rows :
    resultOf (exec (.rspUnknown [0x52]) State.reset) = some (.response (.unknown .empty)) ∧
    resultOf (exec (.rspDone [0x01, 0x02, 0x03, 0x4E]) State.reset)
      = some (.response (.done (.other [0x01, 0x02, 0x03]))) ∧
    resultOf (exec (.rspError [0x02, 0x00, 0x4F]) State.reset) = some (.err ⟨.unknownErrorId, none⟩) ∧
    resultOf (exec (.rspPing [0x99, 0x12, 0xA5]) State.reset) = some (.response (.ping 1 2 99)) ∧
    resultOf (exec (.rspGet [0xF0, 0xED, 0x08, 0x01, 0x68]) State.reset)
      = some (.err ⟨.invalidFlagsBits, none⟩) ∧
    resultOf (exec (.rspGet [0x34, 0x12, 0x08]) State.reset) = some (.err ⟨.unknownItemId, none⟩) ∧
    resultOf (exec (.rspSet [0xF0, 0xED, 0x00, 0x78, 0x56, 0x34, 0x12, 0x5C]) State.reset)
      = some (.response (.update .set 0xEDF0 noFlags (.u32 305419896))) ∧
    resultOf (exec (.rspAsync [0x01, 0x02, 0x00, 0x05, 0x43]) State.reset)
      = some (.response (.update .async 0x0201 noFlags (.u8 5))) ∧
    resultOf (exec (.rspUnassigned 0x06 [0x4F]) State.reset) = some (.err ⟨.unknownResponseId, none⟩) ∧
    resultOf (exec (.parse [0x07, 0x34, 0x12, 0x08, 0x01, 0x5D]) State.reset)
      = some (.err ⟨.checksumInvalid, none⟩) ∧
    resultOf (exec (.guess [0x96, 0x00]) State.reset) = some (.value (.u16 150)) := by decide

/-! ### Witnesses: every statement with hypotheses has an instance that meets them -/

theorem unbounded_fits (n : Nat) : Fits State.reset n := fun _ h => by cases h

theorem cap11_fits (d : Decoder) : Fits (at11 d) 11 := fun cap h => by cases h; decide

theorem cap11_fits_no_more (d : Decoder) : ¬ Fits (at11 d) 12 := fun h => absurd (h 11 rfl) (by decide)

/-- A decoder in the middle of a frame, a full buffer, and an encoder in the middle of a sequence, with a request. -/
def busy (r : Request) : State :=
  { cfg := cap11, dec := low, enc := loaded 4, pending := [r], result := .none, tx := [0x3A], draws := 3 }

theorem cap11_wf : cap11.wf = true := by decide

theorem low_fits : low.rlen ≤ 11 := by decide

theorem loaded_inv : (loaded 4).Inv cap11 where
  place := by decide
  live := fun _ => ⟨by decide, 0x01, rfl, by decide⟩
  fits := fun cap h => by cases h; decide
  faulted := fun h => absurd rfl h
  kinds := .inl rfl

theorem busy_inv (r : Request) : (busy r).Inv where
  cfg := cap11_wf
  dec := {
    low := fun _ => ⟨rfl, 0x10, rfl, by decide⟩
    high := fun h => by cases h
    text := fun h => by cases h
    hexId := fun _ b h => by cases h; decide
    faulted := fun h => absurd rfl h
    fits := fun cap h => by cases h; exact low_fits
    kinds := .inl rfl
    noByte := fun _ => rfl }
  enc := loaded_inv

theorem faulted_inv : (at11 faulted).Inv where
  cfg := by decide
  dec := {
    low := fun h => by cases h
    high := fun _ => ⟨rfl, by decide⟩
    text := fun h => by cases h
    hexId := fun _ b h => by cases h; decide
    faulted := fun _ h => by cases h
    fits := fun cap h => by cases h; decide
    kinds := .inr (.inl rfl)
    noByte := fun h => by cases h }
  enc := {
    place := by decide
    live := fun h => by cases h
    fits := fun cap h => by cases h; decide
    faulted := fun h => absurd rfl h
    kinds := .inl rfl }

theorem short_has_no_marker (s : List Byte) (h : s.length < 10) : ¬ EndsWithMarker s := by
  rintro ⟨p, rfl⟩
  simp [markerBytes] at h

theorem witness_StepRunsDecodedOperation :
    (busy (.op [0x36, 1])).pending = .op [0x36, 1] :: [] ∧ Sys2Proof.decode [0x36, 1] = .ok .pushDigit6 ∧
    Instr.pushDigit6.wellFormed (busy (.op [0x36, 1])).cfg = true := by decide

theorem witness_StepIdlesAndRefusesByName :
    State.reset.pending = [] ∧
    ((busy (.op [0, 4])).pending = .op [0, 4] :: [] ∧ Sys2Proof.decode [0, 4] = .error (.noEvent 0)) ∧
    ((busy (.op [7])).pending = .op [7] :: [] ∧ Sys2Proof.decode [7] = .ok (.cmdGet 0 noFlags) ∧
      (Instr.cmdGet 0 noFlags).wellFormed (busy (.op [7])).cfg = false) ∧
    refusalOf (step (busy (.op [0, 4]))) = some (.undecodable (.noEvent 0)) ∧
    refusalOf (step (busy (.op [7]))) = some (.illFormed (.cmdGet 0 noFlags)) := by decide

/-- All strobes at once, without `rst`, and each strobe that wins alone; none. -/
def strobes (rst clr rxValid encLoad encNext : Bool) : PortIn :=
  { rst := rst, rxValid := rxValid, rxData := 0x0A, clr := clr, encLoad := encLoad, encFrame := 0x5401, encLen := 2,
    encNext := encNext }

theorem witness_EdgeTakesOneEventPerAgent :
    (busy (.edge (strobes true true true true true))).Inv ∧ (busy (.edge (strobes false true true true true))).Inv ∧
    (busy (.edge (strobes false false true false true))).Inv ∧
    (busy (.edge (strobes false false false false false))).Inv ∧
    (busy (.edge (strobes true true true true true))).pending = .edge (strobes true true true true true) :: [] :=
  ⟨busy_inv _, busy_inv _, busy_inv _, busy_inv _, rfl⟩

/-- The inner premises: an index below `rlen`; a live sequence whose next byte is yielded. -/
theorem witness_PortsShowTheState :
    (on low).dec.rbuf[1]? = some 0x10 ∧ (sending 4).enc.tact = true ∧
    ∃ t, exec .encNext (sending 4) = .next t ∧ t.result = .byte 0x0A :=
  ⟨by decide, rfl, _, rfl, rfl⟩

theorem done_is_no_decoder_op : ¬ IsDecoderOp .done := by
  rintro (⟨c, h | h | h⟩ | h | ⟨_, h⟩)
  · cases h
  · cases h
  · simp [classRows] at h
  · cases h
  · cases h

theorem done_is_no_encoder_op : ¬ IsEncoderOp .done := by
  rintro (⟨_, h⟩ | h | ⟨_, h⟩) <;> cases h

/-- One operation of each class. -/
theorem witness_AgentsShareNoState :
    (∃ t, exec .clear (on low) = .next t) ∧ IsDecoderOp .clear ∧
    (∃ t, exec .encNext (sending 4) = .next t) ∧ IsEncoderOp .encNext ∧
    (∃ t, exec .done (on low) = .next t) ∧ ¬ IsDecoderOp .done ∧ ¬ IsEncoderOp .done ∧ Instr.done ≠ .reset ∧
    ∀ w, Instr.done ≠ .decode w :=
  ⟨⟨_, rfl⟩, .inr (.inl rfl), ⟨_, rfl⟩, .inr (.inl rfl), ⟨_, rfl⟩,
    done_is_no_decoder_op, done_is_no_encoder_op,
    fun h => (by cases h), fun w h => (by cases h)⟩

theorem witness_EveryOperationCompletes : (busy (.op [0x01, 5])).Inv ∧ (at11 faulted).Inv :=
  ⟨busy_inv _, faulted_inv⟩

theorem witness_StepKeepsInvariant :
    (busy (.op [0x01, 5])).Inv ∧ ∃ t, step (busy (.op [0x01, 5])) = .next t ∧ t.enc.tact = false :=
  ⟨busy_inv _, _, rfl, by decide⟩

theorem witness_ColonInStartOpensHexFrame :
    IsPush .pushColon 0x3A ∧ State.reset.dec.ferr = .none ∧ State.reset.dec.state = .start :=
  ⟨.inr (.inr (by decide)), rfl, rfl⟩

/-- The bytes beside `':'`, and the class rows LF and a digit. -/
theorem witness_OtherByteInStartOpensText :
    IsPush (.pushOther 0x3B) 0x3B ∧ IsPush .pushDigit9 0x39 ∧ IsPush .pushLf 0x0A ∧ (0x3B : Byte) ≠ 0x3A ∧
    (0x39 : Byte) ≠ 0x3A ∧ State.reset.cfg.textEn = true ∧ State.reset.dec.ferr = .none ∧
    State.reset.dec.state = .start :=
  ⟨.inr (.inl rfl), .inr (.inr (by decide)), .inr (.inr (by decide)), by decide, by decide, rfl, rfl, rfl⟩

theorem witness_OtherByteInStartIsDropped :
    IsPush (.push 0x3B) 0x3B ∧ (0x3B : Byte) ≠ 0x3A ∧ ({ State.reset with cfg := hexOnly } : State).cfg.textEn = false ∧
    State.reset.dec.ferr = .none ∧ State.reset.dec.state = .start :=
  ⟨.inl rfl, by decide, rfl, rfl, rfl⟩

theorem witness_DigitCompletesLastByte :
    IsPush .pushDigit0 0x30 ∧ digitValue 0x30 = some 0 ∧ IsPush .pushDigitLcF 0x66 ∧ digitValue 0x66 = some 15 ∧
    (on low).dec.ferr = .none ∧ (on low).dec.state = .lowNibble ∧ (on low).dec.rbuf = [0x05] ++ [0x10] :=
  ⟨.inr (.inr (by decide)), by decide, .inr (.inr (by decide)), by decide, rfl, rfl, rfl⟩

theorem witness_NonDigitInLowNibbleRaises :
    IsPush .pushColon 0x3A ∧ digitValue 0x3A = none ∧ IsPush (.pushOther 0x67) 0x67 ∧ digitValue 0x67 = none ∧
    (on low).dec.ferr = .none ∧ (on low).dec.state = .lowNibble :=
  ⟨.inr (.inr (by decide)), by decide, .inr (.inl rfl), by decide, rfl, rfl⟩

theorem witness_NewlineInHighNibbleCompletes :
    IsPush .pushLf 0x0A ∧ (on high).dec.ferr = .none ∧ (on high).dec.state = .highNibble ∧ (on high).dec.rbuf ≠ [] :=
  ⟨.inr (.inr (by decide)), rfl, rfl, by decide⟩

/-- Each clause, the first with a full buffer as well. -/
theorem witness_ByteInHighNibbleStartsByteOrRaises :
    IsPush (.pushOther 0x47) 0x47 ∧ IsPush .pushDigitF 0x46 ∧ (0x47 : Byte) ≠ 0x0A ∧ (0x46 : Byte) ≠ 0x0A ∧
    (at11 highFull).dec.ferr = .none ∧ (at11 highFull).dec.state = .highNibble ∧ (at11 high).dec.ferr = .none ∧
    (at11 high).dec.state = .highNibble ∧ digitValue 0x47 = none ∧ digitValue 0x46 = some 15 ∧
    (at11 highFull).cfg.bufCap = some (at11 highFull).dec.rbuf.length ∧
    (at11 high).cfg.bufCap ≠ some (at11 high).dec.rbuf.length :=
  ⟨.inr (.inl rfl), .inr (.inr (by decide)), by decide, by decide, rfl, rfl, rfl, rfl, by decide, by decide, by decide,
    by decide⟩

/-- Each clause, the full buffer ending with MARKER as well. -/
theorem witness_ByteInTextIsStored :
    IsPush .pushColon 0x3A ∧ (at11 textFull).dec.ferr = .none ∧ (at11 textFull).dec.state = .text ∧
    (at11 textFull).cfg.bufCap = some (at11 textFull).dec.rbuf.length ∧ EndsWithMarker (at11 textFull).dec.rbuf ∧
    (at11 textMarked).dec.state = .text ∧ (at11 textMarked).cfg.bufCap ≠ some (at11 textMarked).dec.rbuf.length ∧
    EndsWithMarker (at11 textMarked).dec.rbuf ∧ (at11 text).dec.state = .text ∧
    (at11 text).cfg.bufCap ≠ some (at11 text).dec.rbuf.length ∧ ¬ EndsWithMarker (at11 text).dec.rbuf :=
  ⟨.inr (.inr (by decide)), rfl, rfl, by decide, ⟨[0x41], rfl⟩, rfl, by decide, ⟨[], rfl⟩, rfl, by decide,
    short_has_no_marker _ (by decide)⟩

theorem witness_PushWhileFaultedIsRefused : IsPush .pushLf 0x0A ∧ (on faulted).dec.ferr ≠ .none :=
  ⟨.inr (.inr (by decide)), by decide⟩

theorem witness_DecoderFaultEntryIsPrecise :
    IsPush .pushColon 0x3A ∧ ∃ t, exec .pushColon (on low) = .next t ∧ t.result = .err ⟨.invalidHexDigit, some 0x3A⟩ :=
  ⟨.inr (.inr (by decide)), _, rfl, by decide⟩

theorem witness_DecoderFaultIsSticky :
    (at11 faulted).Inv ∧ (at11 faulted).dec.ferr ≠ .none ∧ (∃ t, exec .pushLf (at11 faulted) = .next t) ∧
    Instr.pushLf ≠ .clear ∧ Instr.pushLf ≠ .reset ∧ ∀ w, Instr.pushLf ≠ .decode w :=
  ⟨faulted_inv, by decide, ⟨_, rfl⟩, by decide, by decide, fun w h => (by cases h)⟩

/-- One PUSH that appends, one that ORs, one that leaves the buffer alone. -/
theorem witness_PushChangesAtMostOneByte :
    IsPush .pushDigit1 0x31 ∧ (on high).dec.state ≠ .start ∧ (on low).dec.state ≠ .start ∧
    (on faulted).dec.state ≠ .start ∧ (∃ t, exec .pushDigit1 (on high) = .next t) ∧
    (∃ t, exec .pushDigit1 (on low) = .next t) ∧ ∃ t, exec .pushDigit1 (on faulted) = .next t :=
  ⟨.inr (.inr (by decide)), by decide, by decide, by decide, ⟨_, rfl⟩, ⟨_, rfl⟩, ⟨_, rfl⟩⟩

theorem witness_ObservationsReadTheDecoder : (busy (.op [14, 6])).Inv := busy_inv _

/-- An error, a frame with every byte consumed, and neither. -/
theorem witness_DecodeIsResetThenPushSlice :
    ∃ s0, exec .reset (on faulted) = .next s0 ∧
      (∃ s1, exec (.pushSlice [0x3A, 0x3A]) s0 = .next s1 ∧
        s1.result = .consumed 2 (some ⟨.invalidHexDigit, some 0x3A⟩)) ∧
      (∃ s1, exec (.pushSlice [0x3A, 0x31, 0x0A]) s0 = .next s1 ∧ s1.result = .consumed 3 none) ∧
      ∃ s1, exec (.pushSlice [0x3A, 0x31, 0x0A, 0x3A]) s0 = .next s1 ∧ s1.result = .consumed 3 none :=
  ⟨_, rfl, ⟨_, rfl, by decide⟩, ⟨_, rfl, by decide⟩, _, rfl, by decide⟩

theorem digits_of (d0 : Byte) (ps : List (Byte × Byte)) (h0 : (digitValue d0).isSome = true)
    (h : ps.all (fun p => (digitValue p.1).isSome && (digitValue p.2).isSome) = true) : AllDigits d0 ps := by
  refine ⟨fun hn => by simp [hn] at h0, fun p hp => ?_⟩
  have hp := List.all_eq_true.mp h p hp
  rw [Bool.and_eq_true] at hp
  exact ⟨fun hn => by simp [hn] at hp, fun hn => by simp [hn] at hp⟩

/-- The smallest hex frame, and one that fills the buffer exactly. -/
theorem witness_HexFrameDecodesToItsBytes :
    AllDigits 0x66 [] ∧ AllDigits 0x30 (List.replicate 10 (0x31, 0x41)) ∧ Fits (at11 low) 11 :=
  ⟨digits_of _ _ rfl rfl, digits_of _ _ rfl rfl, cap11_fits _⟩

theorem witness_HexRoundTrips :
    Fits (at11 low) ((List.replicate 10 (0xAB : Byte)).length + 1) ∧ (0x0F : Byte) ≤ 0x0F ∧
    AllDigits 0x61 [(0x62, 0x43)] ∧ Fits (at11 low) 11 :=
  ⟨cap11_fits _, by decide, digits_of _ _ rfl rfl, cap11_fits _⟩

/-- MARKER itself and one byte: the smallest text block, in the smallest buffer. -/
theorem witness_TextBlockEndsAfterFirstMarker :
    (at11 low).cfg.textEn = true ∧ (0x0A : Byte) ≠ 0x3A ∧ EndsWithMarker (0x0A :: markerBytes.tail) ∧
    (∀ k, k < (0x0A :: markerBytes.tail).length → ¬ EndsWithMarker ((0x0A :: markerBytes.tail).take k)) ∧
    Fits (at11 low) (markerBytes.tail.length + 2) :=
  ⟨rfl, by decide, ⟨[], rfl⟩, fun k hk => short_has_no_marker _ (by simp [markerBytes] at hk ⊢; omega), cap11_fits _⟩

theorem witness_GarbageBeforeHexFrame :
    (0x78 : Byte) ≠ 0x3A ∧ AllDigits 0x31 [(0x35, 0x34)] ∧
    ({ State.reset with cfg := hexOnly } : State).cfg.textEn = false ∧
    Fits { State.reset with cfg := hexOnly } 2 ∧ State.reset.cfg.textEn = true ∧
    Fits State.reset ((hexWire 0x31 [(0x35, 0x34)]).length + 1) :=
  ⟨by decide, digits_of _ _ rfl rfl, rfl, fun _ h => (by cases h), rfl, unbounded_fits _⟩

/-- Each clause at its edge: 12 bytes do not fit 11, 11 do; ids 0x10 and 0x0F. -/
theorem witness_EncLoadLoadsOrFaults :
    ¬ Fits (at11 low) (List.replicate 12 (0x01 : Byte)).length ∧
    (∃ id rest, List.replicate 11 (0x10 : Byte) = id :: rest ∧
      Fits (at11 low) (List.replicate 11 (0x10 : Byte)).length ∧ 0x0F < id) ∧
    ∃ id rest, List.replicate 11 (0x0F : Byte) = id :: rest ∧
      Fits (at11 low) (List.replicate 11 (0x0F : Byte)).length ∧ id ≤ 0x0F :=
  ⟨cap11_fits_no_more _, ⟨_, _, rfl, cap11_fits _, by decide⟩, _, _, rfl, cap11_fits _, by decide⟩

/-- No sequence; and each place of a two-byte frame's sequence. -/
theorem witness_EncNextYieldsSequence :
    State.reset.enc.tact = false ∧ (0x01 : Byte) ≤ 0x0F ∧ (sending 0).enc.tbuf[1]? = some 0x54 ∧
    ∀ p ∈ [0, 1, 2, 3, 4], (sending p).enc.tact = true ∧ (sending p).enc.tbuf = 0x01 :: [0x54] ∧
      (sending p).enc.tpos = p ∧ (sending p).enc.tpos ≤ 2 * (sending p).enc.tbuf.length := by decide

theorem witness_EncodeSpellsOrFails :
    ¬ Fits (at11 low) (List.replicate 12 (0x01 : Byte)).length ∧
    (∃ id rest, [(0x10 : Byte)] = id :: rest ∧ Fits State.reset 1 ∧ 0x0F < id) ∧
    ∃ id rest, [(0x0F : Byte)] = id :: rest ∧ Fits State.reset 1 ∧ id ≤ 0x0F :=
  ⟨cap11_fits_no_more _, ⟨_, _, rfl, unbounded_fits _, by decide⟩, _, _, rfl, unbounded_fits _, by decide⟩

theorem witness_EncoderYieldsEncode :
    Fits (at11 low) ((List.replicate 10 (0xAB : Byte)).length + 1) ∧ (0x0F : Byte) ≤ 0x0F :=
  ⟨cap11_fits _, by decide⟩

/-- The bytes beside the digit ranges; a digit of each case; equal values. -/
theorem witness_NibbleCodecLaws :
    (∀ b ∈ [(0x2F : Byte), 0x3A, 0x40, 0x47, 0x60, 0x67], digitValue b = none) ∧
    exec (.nibble 0x61) State.reset = .next { State.reset with result := .nibble 10 } ∧
    exec (.nibble 0x41) State.reset = .next { State.reset with result := .nibble 10 } ∧
    exec (.hex ((15 : Nibble).setWidth 8)) State.reset = exec (.hex ((15 : Nibble).setWidth 8)) State.reset :=
  ⟨by decide, rfl, rfl, rfl⟩

theorem witness_BuiltFramesAreValidAndComeBack : Fits State.reset (build (.get 0xEDF0 noFlags)).length :=
  unbounded_fits _

/-- Six value bytes fit a buffer of 11, seven do not. -/
theorem witness_SendLoadsTheBuiltFrame :
    Fits (at11 low) (build (.set 0xEDF0 noFlags (.other [1, 2, 3, 4, 5, 6]))).length ∧
    ¬ Fits (at11 low) (build (.set 0xEDF0 noFlags (.other [1, 2, 3, 4, 5, 6, 7]))).length :=
  ⟨cap11_fits _, cap11_fits_no_more _⟩

theorem witness_GuessAfterVenc :
    ∃ t, exec (.venc (.i8 (-1))) State.reset = .next t ∧ t.result = .bytes [0xFF] := ⟨_, rfl, by decide⟩

theorem witness_ParseRejectsInvalidFirst :
    ¬ Acceptable [] ∧ ¬ Acceptable [0x01, 0x55] ∧ IsResponseRow (.rspDone [0x55]) 0x01 [0x55] ∧
    ¬ Acceptable [0x06] ∧ IsResponseRow (.rspUnassigned 0x06 []) 0x06 [] :=
  ⟨fun h => h.1 rfl, fun h => absurd h.2 (by decide), .inl (by decide), fun h => absurd h.2 (by decide),
    .inr ⟨rfl, by decide⟩⟩

/-- The one-byte frames too. -/
theorem witness_UnassignedResponseCodeFails :
    ∀ f ∈ [((0x00 : Byte), []), (0x55, []), (0x06, [0x4F]), (0xFF, [0x01])],
      Acceptable (f.1 :: f.2) ∧ f.1 ∉ [(0x01 : Byte), 0x03, 0x04, 0x05, 0x07, 0x08, 0x0A] := by
  unfold Acceptable; decide

/-- Payloads of no byte and of three. -/
theorem witness_DoneAndUnknownWrapThePayload :
    Acceptable (0x01 :: [] ++ [0x54]) ∧ Acceptable (0x01 :: [0x01, 0x02, 0x03] ++ [0x4E]) ∧
    Acceptable (0x03 :: [] ++ [0x52]) := by
  unfold Acceptable; decide

/-- A payload of one byte; a code outside ERROR_IDS; one in it. -/
theorem witness_ErrorResponseNamesItsCode :
    Acceptable (0x04 :: [0x02] ++ [0x4F]) ∧ Acceptable (0x04 :: [0x02, 0x00] ++ [0x4F]) ∧
    codeOf 0x02 0x00 ∉ State.reset.cfg.errorIds ∧
    codeOf 0x02 0x00 ∈ ({ State.reset with cfg := { Config.vectors with errorIds := [0x0002] } } : State).cfg.errorIds := by
  unfold Acceptable; decide

theorem witness_PingResponseReadsBcd :
    Acceptable (0x05 :: [0x16] ++ [0x3A]) ∧ Acceptable (0x05 :: [0xFF, 0xFF] ++ [0x52]) := by
  unfold Acceptable; decide

/-- Section 2.7, rows 18, 17, 19, 16, 15, for each of the three rows' ids by a checksum byte of its own. -/
theorem witness_UpdateResponsesCheckInOrder :
    updateRow ([0xF0] ++ [0x5E]) .get = (.rspGet [0xF0, 0x5E], 0x07) ∧ Acceptable (0x07 :: [0xF0] ++ [0x5E]) ∧
    updateRow ([0x34, 0x12, 0x00, 0x01] ++ [0x06]) .set = (.rspSet [0x34, 0x12, 0x00, 0x01, 0x06], 0x08) ∧
    Acceptable (0x08 :: [0x34, 0x12, 0x00, 0x01] ++ [0x06]) ∧ codeOf 0x34 0x12 ∉ State.reset.cfg.itemIds ∧
    Acceptable (0x07 :: [0xF0, 0xED] ++ [0x71]) ∧ codeOf 0xF0 0xED ∈ State.reset.cfg.itemIds ∧
    Acceptable (0x07 :: 0xF0 :: 0xED :: 0x08 :: [0x01] ++ [0x68]) ∧ (0x08 : Byte) &&& 0xF8 ≠ 0 ∧
    updateRow (0xF0 :: 0xED :: 0x07 :: [] ++ [0x67]) .async = (.rspAsync [0xF0, 0xED, 0x07, 0x67], 0x0A) ∧
    Acceptable (0x0A :: 0xF0 :: 0xED :: 0x07 :: [] ++ [0x67]) ∧ (0x07 : Byte) &&& 0xF8 = 0 := by
  unfold Acceptable; decide

theorem witness_SomeOperationsNeverRaise :
    (∃ t, exec .encNext (sending 4) = .next t) ∧ (∃ t, exec (.pushOther 0x47) State.reset = .next t) ∧
    IsPush (.pushOther 0x47) 0x47 ∧ State.reset.dec.state = .start :=
  ⟨⟨_, rfl⟩, ⟨_, rfl⟩, .inr (.inl rfl), rfl⟩

/-- The codes, strobes and flag bits beside the assigned ones. -/
theorem witness_UndecodableRequestsAreNamed :
    (∀ code ∈ [(0x02 : Byte), 0x05, 0x09, 0x0B, 0xFF],
      code ∉ [(0x00 : Byte), 0x01, 0x03, 0x04, 0x06, 0x07, 0x08, 0x0A]) ∧
    (∀ strobes ∈ [(0x00 : Byte), 0x08, 0xFF], strobes = 0x00 ∨ 0x07 < strobes) ∧
    ∀ f ∈ [(0x08 : Byte), 0x80, 0xFF], f &&& 0xF8 ≠ 0 := by decide

theorem witness_DecodeOfEncodeIsTheOperation :
    (Instr.cmdSet 0xEDF0 noFlags (.i32 (-2147483648))).wellFormed Config.vectors = true ∧
    (Instr.pushOther 0x67).wellFormed Config.vectors = true ∧
    (Instr.rspUnassigned 0xFF []).wellFormed Config.vectors = true := by decide

/-- The buffers as cells (log 8): a buffer in use is in canonical form, and its cells are its bytes by index. -/
theorem test_cells_of_a_buffer :
    Memory.cells low.rbuf = [(0, 0x05), (1, 0x10)] ∧ Memory.wf (Memory.cells low.rbuf) = true ∧
    Memory.wf [(1, 0x05)] = false := by decide

end Sys2Proof.Tests
end

section
/-! SUPPORT. The events as equations of outcomes, and one clock edge (30_encoding.md R76, 10_state.md R21). -/

open Sys2Proof Sys2Proof.Claims

namespace Sys2Proof.Machine

/-! ### The events -/

theorem exec_clear (s : State) : exec .clear s = .next { s with dec := s.dec.clear, result := .none } := rfl

theorem exec_push (c : Byte) (s : State) :
    exec (.push c) s =
      .next { s with dec := (s.dec.push s.cfg c).1, result := Result.ofErr (s.dec.push s.cfg c).2 } := rfl

theorem exec_encLoad (f : List Byte) (s : State) :
    exec (.encLoad f) s =
      .next { s with enc := (s.enc.load s.cfg f).1, result := Result.ofErr (s.enc.load s.cfg f).2 } := rfl

theorem exec_encNext_idle (s : State) (h : s.enc.tact = false) :
    exec .encNext s = .next { s with result := .none } := by
  simp [exec, execEncNext, h, State.setResult]

theorem exec_encNext_live (s : State) (b : Byte) (h : s.enc.tact = true) (hb : s.enc.nextByte = some b) :
    exec .encNext s = .next { s with enc := s.enc.advance, tx := s.tx ++ [b], result := .byte b } := by
  simp [exec, execEncNext, h, hb, State.setEnc, State.emit, State.setResult]

/-- Inside the block the encoder never misses a digit (40_nibble_codec.md R83). -/
theorem Encoder.Inv.exists_nextByte {cfg : Config} {e : Encoder} (h : e.Inv cfg) (ha : e.tact = true) :
    ∃ b, e.nextByte = some b := by
  obtain ⟨_, id, hid, hle⟩ := h.live ha
  obtain ⟨rest, hbuf⟩ : ∃ rest, e.tbuf = id :: rest := by
    cases hb : e.tbuf with
    | nil => simp [hb, readByte] at hid
    | cons x rest =>
      obtain rfl : x = id := by simpa [hb, readByte] using hid
      exact ⟨rest, rfl⟩
  rcases e.nextByte_cases id rest hbuf hle with ⟨_, h⟩ | ⟨_, h⟩ | ⟨_, _, _, _, h⟩ | ⟨_, _, h⟩ <;>
    exact ⟨_, h⟩

/-! ### One clock edge: an event of one agent does the same whatever the other agent holds -/

/-- What the decoder becomes on an edge: an event of its own writes nothing else but `result`, on every state with
this decoder and these parameters; without an event it stays. -/
inductive DecoderTakes (s : State) (d : Decoder) : Option Instr → Prop where
  | idle (h : d = s.dec) : DecoderTakes s d none
  | event (i : Instr) (r : Result)
      (h : ∀ u : State, u.cfg = s.cfg → u.dec = s.dec → exec i u = .next { u with dec := d, result := r }) :
      DecoderTakes s d (some i)

/-- What the encoder becomes on an edge, and the bytes `ys` it yields. -/
inductive EncoderTakes (s : State) (e : Encoder) (ys : List Byte) : Option Instr → Prop where
  | idle (he : e = s.enc) (hy : ys = []) : EncoderTakes s e ys none
  | event (i : Instr) (r : Result)
      (h : ∀ u : State, u.cfg = s.cfg → u.enc = s.enc →
        exec i u = .next { u with enc := e, tx := u.tx ++ ys, result := r }) :
      EncoderTakes s e ys (some i)

theorem PortIn.decoderEvent_clear (p : PortIn) (hr : p.rst = false) (hc : p.clr = true) :
    p.decoderEvent = some .clear := by
  simp [PortIn.decoderEvent, hr, hc]

theorem PortIn.decoderEvent_push (p : PortIn) (hr : p.rst = false) (hc : p.clr = false) (hv : p.rxValid = true) :
    p.decoderEvent = some (.push p.rxData) := by
  simp [PortIn.decoderEvent, hr, hc, hv]

theorem PortIn.decoderEvent_none (p : PortIn) (hr : p.rst = false) (hc : p.clr = false) (hv : p.rxValid = false) :
    p.decoderEvent = none := by
  simp [PortIn.decoderEvent, hr, hc, hv]

theorem PortIn.encoderEvent_encLoad (p : PortIn) (hr : p.rst = false) (hl : p.encLoad = true) :
    p.encoderEvent = some (.encLoad p.frame) := by
  simp [PortIn.encoderEvent, hr, hl]

theorem PortIn.encoderEvent_encNext (p : PortIn) (hr : p.rst = false) (hl : p.encLoad = false)
    (hn : p.encNext = true) : p.encoderEvent = some .encNext := by
  simp [PortIn.encoderEvent, hr, hl, hn]

theorem PortIn.encoderEvent_none (p : PortIn) (hr : p.rst = false) (hl : p.encLoad = false)
    (hn : p.encNext = false) : p.encoderEvent = none := by
  simp [PortIn.encoderEvent, hr, hl, hn]

theorem decoderTakes_decoderEvent (p : PortIn) (s : State) (hr : p.rst = false) :
    ∃ d, DecoderTakes s d p.decoderEvent := by
  cases hc : p.clr with
  | true =>
    rw [p.decoderEvent_clear hr hc]
    exact ⟨_, .event _ .none fun u _ hd => by rw [exec_clear, hd]⟩
  | false =>
    cases hv : p.rxValid with
    | true =>
      rw [p.decoderEvent_push hr hc hv]
      exact ⟨_, .event _ _ fun u hcfg hd => by rw [exec_push, hd, hcfg]⟩
    | false =>
      rw [p.decoderEvent_none hr hc hv]
      exact ⟨_, .idle rfl⟩

theorem encoderTakes_encNext (s : State) (hinv : s.enc.Inv s.cfg) :
    ∃ e ys, EncoderTakes s e ys (some .encNext) := by
  cases ha : s.enc.tact with
  | false =>
    exact ⟨s.enc, [], .event _ .none fun u _ he => by
      rw [exec_encNext_idle u (he ▸ ha), List.append_nil, ← he]⟩
  | true =>
    obtain ⟨b, hb⟩ := hinv.exists_nextByte ha
    exact ⟨_, [b], .event _ (.byte b) fun u _ he => by
      rw [exec_encNext_live u b (he ▸ ha) (he ▸ hb), he]⟩

theorem encoderTakes_encoderEvent (p : PortIn) (s : State) (hinv : s.enc.Inv s.cfg) (hr : p.rst = false) :
    ∃ e ys, EncoderTakes s e ys p.encoderEvent := by
  cases hl : p.encLoad with
  | true =>
    rw [p.encoderEvent_encLoad hr hl]
    exact ⟨_, [], .event _ _ fun u hcfg he => by rw [exec_encLoad, he, hcfg, List.append_nil]⟩
  | false =>
    cases hn : p.encNext with
    | true =>
      rw [p.encoderEvent_encNext hr hl hn]
      exact encoderTakes_encNext s hinv
    | false =>
      rw [p.encoderEvent_none hr hl hn]
      exact ⟨_, _, .idle rfl rfl⟩

/-- Taking the request from the queue changes neither agent (log 1). -/
theorem DecoderTakes.fetch {s : State} {d : Decoder} {o : Option Instr} (rest : List Request)
    (h : DecoderTakes s d o) : DecoderTakes (s.fetch rest) d o := by
  cases h with
  | idle h => exact .idle h
  | event i r h => exact .event i r h

theorem EncoderTakes.fetch {s : State} {e : Encoder} {ys : List Byte} {o : Option Instr} (rest : List Request)
    (h : EncoderTakes s e ys o) : EncoderTakes (s.fetch rest) e ys o := by
  cases h with
  | idle he hy => exact .idle he hy
  | event i r h => exact .event i r h

/-- The two agents share no state (20_memory.md R42), so an edge does what each of its events does alone. -/
theorem execEdge_eq_of_takes (p : PortIn) (s : State) (d : Decoder) (e : Encoder) (ys : List Byte)
    (hd : DecoderTakes s d p.decoderEvent) (he : EncoderTakes s e ys p.encoderEvent) :
    ∃ r, execEdge p s = .next { s with dec := d, enc := e, tx := s.tx ++ ys, result := r } := by
  unfold execEdge
  generalize p.decoderEvent = di at hd ⊢
  generalize p.encoderEvent = ei at he ⊢
  cases hd with
  | idle hd =>
    cases he with
    | idle he hy => exact ⟨.none, by simp [State.setResult, hd, he, hy]⟩
    | event j r h => exact ⟨r, by simp [h s rfl rfl, hd]⟩
  | event i r h =>
    cases he with
    | idle he hy => exact ⟨r, by simp [h s rfl rfl, he, hy]⟩
    | event j r' h' =>
      exact ⟨.both r r', by
        simp [execBoth, h s rfl rfl, h' { s with dec := d, result := r } rfl rfl, State.setResult]⟩

/-- The presented frame's bytes by division instead of by shift (10_state.md R20). -/
theorem PortIn.frame_eq_map_div (p : PortIn) :
    p.frame = (List.range p.encLen).map (fun k => BitVec.ofNat 8 (p.encFrame / 2 ^ (8 * k))) := by
  simp [PortIn.frame, Nat.shiftRight_eq_div_pow]

theorem execEdge_reset (p : PortIn) (s : State) (hr : p.rst = true) :
    execEdge p s = .next { s with dec := Decoder.afterReset, enc := Encoder.afterReset, result := .none } := by
  have hd : p.decoderEvent = some .reset := by simp [PortIn.decoderEvent, hr]
  have he : p.encoderEvent = none := by simp [PortIn.encoderEvent, hr]
  rw [execEdge, hd, he]
  rfl

/-- The decoder's part of an edge without `rst`, as the event it takes in the priority of 10_state.md R21. -/
theorem DecoderTakes.by_priority {p : PortIn} {s : State} {d : Decoder} (hr : p.rst = false)
    (hd : DecoderTakes s d p.decoderEvent) :
    (p.clr = true → d = s.dec.clear) ∧
    (p.clr = false → p.rxValid = true → ∃ r, exec (.push p.rxData) s = .next { s with dec := d, result := r }) ∧
    (p.clr = false → p.rxValid = false → d = s.dec) := by
  refine ⟨fun hc => ?_, fun hc hv => ?_, fun hc hv => ?_⟩
  · rw [p.decoderEvent_clear hr hc] at hd
    cases hd with
    | event _ r h => exact congrArg State.dec (Host.Outcome.next.inj ((h s rfl rfl).symm.trans (exec_clear s)))
  · rw [p.decoderEvent_push hr hc hv] at hd
    cases hd with
    | event _ r h => exact ⟨r, h s rfl rfl⟩
  · rw [p.decoderEvent_none hr hc hv] at hd
    cases hd with
    | idle h => exact h

/-- The encoder's part of an edge without `rst`. -/
theorem EncoderTakes.by_priority {p : PortIn} {s : State} {e : Encoder} {ys : List Byte} (hr : p.rst = false)
    (he : EncoderTakes s e ys p.encoderEvent) :
    (p.encLoad = true →
      ∃ r, exec (.encLoad p.frame) s = .next { s with enc := e, tx := s.tx ++ ys, result := r }) ∧
    (p.encLoad = false → p.encNext = true →
      ∃ r, exec .encNext s = .next { s with enc := e, tx := s.tx ++ ys, result := r }) ∧
    (p.encLoad = false → p.encNext = false → e = s.enc ∧ ys = []) := by
  refine ⟨fun hl => ?_, fun hl hn => ?_, fun hl hn => ?_⟩
  · rw [p.encoderEvent_encLoad hr hl] at he
    cases he with
    | event _ r h => exact ⟨r, h s rfl rfl⟩
  · rw [p.encoderEvent_encNext hr hl hn] at he
    cases he with
    | event _ r h => exact ⟨r, h s rfl rfl⟩
  · rw [p.encoderEvent_none hr hl hn] at he
    cases he with
    | idle h hy => exact ⟨h, hy⟩

/-- Settles O3: each agent's event on an edge acts as it does alone, since the agents share no state. -/
theorem edgeTakesOneEventPerAgent : Obligations.EdgeTakesOneEventPerAgent := by
  unfold Obligations.EdgeTakesOneEventPerAgent
  intro s p rest hinv hpend
  rw [step_request s _ rest hpend]
  cases hr : p.rst with
  | true => exact ⟨_, execEdge_reset p _ hr, rfl, rfl, fun _ => ⟨rfl, rfl, rfl⟩, by simp⟩
  | false =>
    obtain ⟨d, hd⟩ := decoderTakes_decoderEvent p s hr
    obtain ⟨e, ys, he⟩ := encoderTakes_encoderEvent p s hinv.enc hr
    obtain ⟨r, hedge⟩ := execEdge_eq_of_takes p (s.fetch rest) d e ys (hd.fetch rest) (he.fetch rest)
    obtain ⟨hclear, hpush, hidle⟩ := hd.by_priority hr
    obtain ⟨hload, hnext, hstay⟩ := he.by_priority hr
    refine ⟨_, hedge, rfl, rfl, by simp, fun _ => ⟨fun hc => ?_, hpush, hidle, ?_, hnext, fun hl hn => ?_⟩⟩
    · obtain rfl := hclear hc
      exact ⟨exec_clear s, rfl⟩
    · rwa [← p.frame_eq_map_div]
    · obtain ⟨rfl, rfl⟩ := hstay hl hn
      exact ⟨rfl, List.append_nil _⟩

end Sys2Proof.Machine
end

section
/-! SUPPORT. What a hex frame on the wire decodes to (30_encoding.md R51, R63). -/

open Sys2Proof Sys2Proof.Claims

namespace Sys2Proof.Machine

/-! ### Digits by R55's table -/

/-- R55's table and `nibble` (40_nibble_codec.md R80) agree. -/
theorem nibble_of_digitValue (c : Byte) : digitValue c ≠ none → nibble c = .ok ((digitValue c).getD 0) := by
  revert c; decide

theorem ne_newline_of_digitValue (c : Byte) : digitValue c ≠ none → c ≠ 0x0A := by
  revert c; decide

/-! ### The decoder inside a hex frame -/

/-- The decoder with no fault in a state of the hex form, holding `buf`. -/
def Decoder.hexAt (st : Fsm) (buf : List Byte) : Decoder :=
  { state := st, rbuf := buf, fmt := .hex, ferr := .none, ebyte := 0x00 }

/-- The bytes of the pairs of digits of a wire string (R63). -/
def pairBytes (ps : List (Byte × Byte)) : List Byte :=
  ps.map fun p => shiftedNibble ((digitValue p.1).getD 0) ||| zextNibble ((digitValue p.2).getD 0)

theorem hexBuffer_eq (d0 : Byte) (ps : List (Byte × Byte)) :
    hexBuffer d0 ps = zextNibble ((digitValue d0).getD 0) :: pairBytes ps := rfl

theorem Decoder.push_hexAt_low (cfg : Config) (c : Byte) (buf : List Byte) (b : Byte) (hc : digitValue c ≠ none) :
    (Decoder.hexAt .lowNibble (buf ++ [b])).push cfg c =
      (Decoder.hexAt .highNibble (buf ++ [b ||| zextNibble ((digitValue c).getD 0)]), none) := by
  rw [Decoder.push_low _ _ _ rfl rfl, Decoder.pushLow, nibble_of_digitValue c hc]
  simp [Decoder.completeByte, Decoder.hexAt]

theorem Decoder.push_hexAt_high (cfg : Config) (c : Byte) (buf : List Byte) (hc : digitValue c ≠ none)
    (hroom : cfg.bufCap ≠ some buf.length) :
    (Decoder.hexAt .highNibble buf).push cfg c =
      (Decoder.hexAt .lowNibble (buf ++ [shiftedNibble ((digitValue c).getD 0)]), none) := by
  have hfull : (Decoder.hexAt .highNibble buf).full cfg = false := decide_eq_false hroom
  rw [Decoder.push_high _ _ _ rfl rfl, Decoder.pushHigh, if_neg (ne_newline_of_digitValue c hc),
    nibble_of_digitValue c hc]
  simp only [hfull, Bool.false_eq_true, if_false]
  rfl

theorem Decoder.push_hexAt_newline (cfg : Config) (buf : List Byte) :
    (Decoder.hexAt .highNibble buf).push cfg 0x0A = (Decoder.hexAt .start buf, none) := rfl

theorem Decoder.push_start_colon (cfg : Config) (d : Decoder) (hs : d.state = .start) (hf : d.ferr = .none) :
    d.push cfg 0x3A = ({ d with rbuf := [0x00], fmt := .hex, state := .lowNibble }, none) := by
  rw [Decoder.push_start _ _ _ hf hs]
  rfl

/-- A digit that completes a byte, inside `push_slice`. -/
theorem Decoder.pushSlice_hexAt_low (cfg : Config) (c : Byte) (cs buf : List Byte) (b : Byte)
    (hc : digitValue c ≠ none) :
    Decoder.pushSlice cfg (c :: cs) (Decoder.hexAt .lowNibble (buf ++ [b])) =
      let r := Decoder.pushSlice cfg cs
        (Decoder.hexAt .highNibble (buf ++ [b ||| zextNibble ((digitValue c).getD 0)]))
      (r.1, r.2.1 + 1, r.2.2) := by
  have hp := Decoder.push_hexAt_low cfg c buf b hc
  rw [Decoder.pushSlice_cons_go _ _ _ _ (by rw [hp]) (by rw [hp]; rfl), hp]

/-- A pair of digits is one byte of the buffer. -/
theorem Decoder.pushSlice_hexAt_pair (cfg : Config) (p : Byte × Byte) (cs buf : List Byte)
    (h1 : digitValue p.1 ≠ none) (h2 : digitValue p.2 ≠ none) (hroom : cfg.bufCap ≠ some buf.length) :
    Decoder.pushSlice cfg (p.1 :: p.2 :: cs) (Decoder.hexAt .highNibble buf) =
      let r := Decoder.pushSlice cfg cs (Decoder.hexAt .highNibble (buf ++ pairBytes [p]))
      (r.1, r.2.1 + 2, r.2.2) := by
  have hp := Decoder.push_hexAt_high cfg p.1 buf h1 hroom
  rw [Decoder.pushSlice_cons_go _ _ _ _ (by rw [hp]) (by rw [hp]; rfl), hp,
    Decoder.pushSlice_hexAt_low cfg p.2 cs buf _ h2]
  rfl

/-- The rest of a hex frame, after a byte of it is complete, for as many bytes as there is room for. -/
theorem Decoder.pushSlice_hexAt_pairs (cfg : Config) (ps : List (Byte × Byte)) (buf : List Byte) (hbuf : buf ≠ [])
    (hd : ∀ p ∈ ps, digitValue p.1 ≠ none ∧ digitValue p.2 ≠ none)
    (hfits : ∀ cap, cfg.bufCap = some cap → buf.length + ps.length ≤ cap) :
    Decoder.pushSlice cfg (ps.flatMap (fun p => [p.1, p.2]) ++ [0x0A]) (Decoder.hexAt .highNibble buf) =
      (Decoder.hexAt .start (buf ++ pairBytes ps), 2 * ps.length + 1, none) := by
  induction ps generalizing buf with
  | nil =>
    have hdone : (Decoder.hexAt .start buf).done = true := by
      simpa [Decoder.done, Decoder.hexAt, List.length_pos_iff] using hbuf
    have hp := Decoder.push_hexAt_newline cfg buf
    rw [List.flatMap_nil, List.nil_append,
      Decoder.pushSlice_cons_stop _ _ _ _ (.inr (by rw [hp]; exact hdone)), hp]
    simp [pairBytes]
  | cons p ps ih =>
    obtain ⟨h1, h2⟩ := hd p List.mem_cons_self
    have hroom : cfg.bufCap ≠ some buf.length := fun h => by
      have := hfits _ h
      simp at this
    have hrest : ∀ q ∈ ps, digitValue q.1 ≠ none ∧ digitValue q.2 ≠ none :=
      fun q hq => hd q (List.mem_cons_of_mem p hq)
    have hfits' : ∀ cap, cfg.bufCap = some cap → (buf ++ pairBytes [p]).length + ps.length ≤ cap := by
      intro cap h
      have := hfits cap h
      simp [pairBytes] at this ⊢
      omega
    have hsplit : (p :: ps).flatMap (fun p => [p.1, p.2]) ++ [0x0A] =
        p.1 :: p.2 :: (ps.flatMap (fun p => [p.1, p.2]) ++ [(0x0A : Byte)]) := by simp
    rw [hsplit, Decoder.pushSlice_hexAt_pair cfg p _ buf h1 h2 hroom, ih _ (by simp [pairBytes]) hrest hfits']
    simp [pairBytes]
    omega

theorem hexWire_length (d0 : Byte) (ps : List (Byte × Byte)) : (hexWire d0 ps).length = 2 * ps.length + 3 := by
  simp [hexWire, List.length_flatMap]
  omega

/-- A whole hex frame from a Start state without a fault: `push_slice` takes all of it. -/
theorem Decoder.pushSlice_hexWire (cfg : Config) (d : Decoder) (d0 : Byte) (ps : List (Byte × Byte))
    (hs : d.state = .start) (hf : d.ferr = .none) (he : d.ebyte = 0x00) (hd : AllDigits d0 ps)
    (hfits : ∀ cap, cfg.bufCap = some cap → ps.length + 1 ≤ cap) :
    Decoder.pushSlice cfg (hexWire d0 ps) d =
      (Decoder.hexAt .start (hexBuffer d0 ps), (hexWire d0 ps).length, none) := by
  obtain ⟨h0, hps⟩ := hd
  have hopen : d.push cfg 0x3A = (Decoder.hexAt .lowNibble ([] ++ [0x00]), none) := by
    rw [Decoder.push_start_colon cfg d hs hf, hf, he]
    rfl
  have hfirst : [] ++ [0x00 ||| zextNibble ((digitValue d0).getD 0)] = [zextNibble ((digitValue d0).getD 0)] := by
    simp
  have hpairs := Decoder.pushSlice_hexAt_pairs cfg ps [zextNibble ((digitValue d0).getD 0)] (by simp) hps
    (fun cap h => by have := hfits cap h; simp; omega)
  rw [hexWire_length, hexWire, Decoder.pushSlice_cons_go _ _ _ _ (by rw [hopen]) (by rw [hopen]; rfl), hopen,
    Decoder.pushSlice_hexAt_low cfg d0 _ [] 0x00 h0]
  rw [hfirst, hpairs, hexBuffer_eq]
  rfl

theorem exec_decode (w : List Byte) (s : State) :
    exec (.decode w) s = .next { s with
      dec := (Decoder.pushSlice s.cfg w Decoder.afterReset).1
      enc := Encoder.afterReset
      result := .wire (wireResult w (Decoder.pushSlice s.cfg w Decoder.afterReset)) } := rfl

/-- A sequence that is one whole frame and raises no error decodes to that frame (R105). -/
theorem wireResult_of_done (w : List Byte) (d : Decoder) (h : d.done = true) :
    wireResult w (d, w.length, none) = .ok d.rbuf := by
  simp [wireResult, h]

/-- Settles O27, by induction on the pairs of digits: each pair is one byte of the buffer. -/
theorem hexFrameDecodesToItsBytes : Obligations.HexFrameDecodesToItsBytes := by
  unfold Obligations.HexFrameDecodesToItsBytes
  intro s d0 ps hd hfits
  rw [exec_decode, Decoder.pushSlice_hexWire s.cfg Decoder.afterReset d0 ps rfl rfl rfl hd hfits,
    wireResult_of_done _ _ rfl]
  rfl

end Sys2Proof.Machine
end

section
/-! SUPPORT. The encoder's sequence is `encode(f)` (43_frame_encoder.md R113, 30_encoding.md R71). -/

open Sys2Proof Sys2Proof.Claims

namespace Sys2Proof.Machine

/-- A place of the digits of the bytes: the high digit at an even place, the low one at an odd. -/
theorem getElem?_flatMap_twoDigits (bs : List Byte) (k : Nat) :
    (bs.flatMap twoDigits)[k]? =
      bs[k / 2]?.map (fun b => if k % 2 = 0 then hexDigit (highNibble b) else hexDigit (lowNibble b)) := by
  induction bs generalizing k with
  | nil => simp
  | cons b bs ih =>
    match k with
    | 0 => simp [twoDigits]
    | 1 => simp [twoDigits]
    | k + 2 => simpa [twoDigits] using ih k

theorem length_flatMap_twoDigits (bs : List Byte) : (bs.flatMap twoDigits).length = 2 * bs.length := by
  simp [twoDigits, List.length_flatMap, Nat.mul_comm]

/-- `tx_data` at each place of a sequence that can be spelled is that place of `encode(f)`. -/
theorem Encoder.nextByte_eq_spell (e : Encoder) (id : Byte) (rest : List Byte) (hb : e.tbuf = id :: rest)
    (hid : id ≤ 0x0F) (hp : e.tpos ≤ 2 * (rest.length + 1)) : e.nextByte = (spell (id :: rest))[e.tpos]? := by
  have hlen : e.tlen = rest.length + 1 := by simp [Encoder.tlen, hb]
  rcases e.nextByte_cases id rest hb hid with
    ⟨h0, hn⟩ | ⟨h1, hn⟩ | ⟨b, h2, hlt, hread, hn⟩ | ⟨hge, _, hn⟩
  · rw [hn, h0]; rfl
  · rw [hn, h1]; rfl
  · obtain ⟨k, hk⟩ : ∃ k, e.tpos = k + 2 := ⟨e.tpos - 2, by omega⟩
    have hbyte : rest[k / 2]? = some b := by simpa [readByte, hb, hk] using hread
    rw [hn, hk, spell, List.getElem?_cons_succ, List.getElem?_cons_succ,
      List.getElem?_append_left (by rw [length_flatMap_twoDigits]; omega), getElem?_flatMap_twoDigits, hbyte]
    simp
  · have hend : e.tpos = (rest.flatMap twoDigits).length + 2 := by rw [length_flatMap_twoDigits]; omega
    rw [hn, hend]
    simp [spell]

/-- The encoder at place `p` of the sequence of a loaded frame: live until the last byte is out. -/
def Encoder.atPlace (f : List Byte) (p : Nat) : Encoder :=
  { tbuf := f, tpos := p, tact := decide (p < (spell f).length), tferr := .none }

theorem Encoder.advance_atPlace (id : Byte) (rest : List Byte) (p : Nat) (hp : p < (spell (id :: rest)).length) :
    (Encoder.atPlace (id :: rest) p).advance = Encoder.atPlace (id :: rest) (p + 1) := by
  rw [spell_length] at hp
  by_cases hlast : p = 2 * (rest.length + 1)
  · simp [Encoder.advance, Encoder.atPlace, Encoder.tlen, spell_length, hlast]
  · have : p + 1 < 2 * (rest.length + 1) + 1 := by omega
    simp [Encoder.advance, Encoder.atPlace, Encoder.tlen, spell_length, hlast, hp, this]

/-- One ENC_NEXT inside the sequence. -/
theorem exec_encNext_atPlace (s : State) (id : Byte) (rest : List Byte) (p : Nat) (hid : id ≤ 0x0F)
    (henc : s.enc = Encoder.atPlace (id :: rest) p) (hp : p < (spell (id :: rest)).length) :
    exec .encNext s = .next { s with
      enc := Encoder.atPlace (id :: rest) (p + 1)
      tx := s.tx ++ [(spell (id :: rest))[p]]
      result := .byte (spell (id :: rest))[p] } := by
  have hle : s.enc.tpos ≤ 2 * (rest.length + 1) := by
    rw [spell_length] at hp
    rw [henc]
    exact Nat.le_of_lt_succ hp
  have hb : s.enc.nextByte = some (spell (id :: rest))[p] := by
    rw [s.enc.nextByte_eq_spell id rest (by rw [henc]; rfl) hid hle, henc]
    exact List.getElem?_eq_getElem hp
  have ha : s.enc.tact = true := by rw [henc]; exact decide_eq_true hp
  rw [exec_encNext_live s _ ha hb, henc, Encoder.advance_atPlace id rest p hp]

theorem runs_cons_of_next {i : Instr} {is : List Instr} {s t : State} (h : exec i s = .next t) :
    runs (i :: is) s = runs is t := by
  simp [runs, h]

/-- ENC_NEXT from place `p` to the end yields the rest of `encode(f)` (43_frame_encoder.md R113). -/
theorem runs_encNext_atPlace (k : Nat) (s : State) (id : Byte) (rest : List Byte) (p : Nat) (hid : id ≤ 0x0F)
    (henc : s.enc = Encoder.atPlace (id :: rest) p) (hk : p + k = (spell (id :: rest)).length) :
    ∃ r, runs (List.replicate k .encNext) s = .next { s with
      enc := Encoder.atPlace (id :: rest) (p + k)
      tx := s.tx ++ (spell (id :: rest)).drop p
      result := r } := by
  induction k generalizing s p with
  | zero =>
    have hdrop : (spell (id :: rest)).drop p = [] := List.drop_eq_nil_of_le (by omega)
    exact ⟨s.result, by simp [runs, hdrop, ← henc]⟩
  | succ k ih =>
    have hp : p < (spell (id :: rest)).length := by omega
    have hstep := exec_encNext_atPlace s id rest p hid henc hp
    obtain ⟨r, hr⟩ := ih { s with
      enc := Encoder.atPlace (id :: rest) (p + 1)
      tx := s.tx ++ [(spell (id :: rest))[p]]
      result := .byte (spell (id :: rest))[p] } (p + 1) rfl (by omega)
    refine ⟨r, ?_⟩
    rw [List.replicate_succ, runs_cons_of_next hstep, hr, List.drop_eq_getElem_cons hp]
    simp [Nat.add_assoc, Nat.add_comm 1 k]

theorem overCapacity_eq_false_of_fits (s : State) (n : Nat) (h : Fits s n) : overCapacity s.cfg n = false := by
  cases hc : s.cfg.bufCap with
  | none => simp [overCapacity, hc]
  | some cap => simpa [overCapacity, hc] using h cap hc

theorem loadError_none_of_fits (s : State) (id : Byte) (rest : List Byte) (hfits : Fits s (rest.length + 1))
    (hid : id ≤ 0x0F) : loadError s.cfg (id :: rest) = none :=
  (loadError_none_iff _ _).mpr ⟨id, rest, rfl, overCapacity_eq_false_of_fits s _ hfits, hid⟩

theorem exec_encode_spell (s : State) (f : List Byte) (h : loadError s.cfg f = none) :
    exec (.encode f) s = .next { s with result := .bytes (spell f) } := by
  simp [exec, execEncode, answer, encodeFrame, h, Result.ofExcept, State.setResult]

theorem exec_encLoad_atPlace (s : State) (id : Byte) (rest : List Byte)
    (h : loadError s.cfg (id :: rest) = none) :
    exec (.encLoad (id :: rest)) s = .next { s with enc := Encoder.atPlace (id :: rest) 0, result := .none } := by
  simp [exec_encLoad, Encoder.load, h, Encoder.atPlace, spell_length, Result.ofErr]

/-- Settles O35, by induction on the number of ENC_NEXT still to come: at each place the encoder yields that place of
`encode(f)`. -/
theorem encoderYieldsEncode : Obligations.EncoderYieldsEncode := by
  unfold Obligations.EncoderYieldsEncode
  intro s id rest hfits hid
  have hload := loadError_none_of_fits s id rest hfits hid
  obtain ⟨r, hruns⟩ := runs_encNext_atPlace (spell (id :: rest)).length
    { s with enc := Encoder.atPlace (id :: rest) 0, result := .none } id rest 0 hid rfl (Nat.zero_add _)
  have hidle : (Encoder.atPlace (id :: rest) (0 + (spell (id :: rest)).length)).tact = false := by
    simp [Encoder.atPlace]
  exact ⟨spell (id :: rest), _, exec_encode_spell s _ hload, spell_length id rest,
    (runs_cons_of_next (exec_encLoad_atPlace s id rest hload)).trans hruns, rfl, hidle, rfl,
    exec_encNext_idle _ hidle⟩

end Sys2Proof.Machine
end

section
/-! SUPPORT. `nibble` and `hex` as operations, by R55's table, and their laws (40_nibble_codec.md R80 to R82). -/

open Sys2Proof Sys2Proof.Claims

namespace Sys2Proof.Machine

/-! ### `nibble` by R55's table -/

theorem nibble_of_digitValue_none (b : Byte) : digitValue b = none → nibble b = .error ⟨.invalidHexDigit, some b⟩ := by
  revert b; decide

theorem exec_nibble (b : Byte) (s : State) :
    exec (.nibble b) s = .next { s with result := Result.ofExcept .nibble (nibble b) } := rfl

theorem exec_nibble_of_digitValue {b : Byte} {v : Nibble} (h : digitValue b = some v) (s : State) :
    exec (.nibble b) s = .next { s with result := .nibble v } := by
  rw [exec_nibble, nibble_of_digitValue b (by simp [h]), h]
  rfl

theorem exec_nibble_of_digitValue_none {b : Byte} (h : digitValue b = none) (s : State) :
    exec (.nibble b) s = .next { s with result := .err ⟨.invalidHexDigit, some b⟩ } := by
  rw [exec_nibble, nibble_of_digitValue_none b h]
  rfl

/-- `nibble` answers a value only where R55's table has it. -/
theorem digitValue_of_exec_nibble {b : Byte} {v : Nibble} {s : State}
    (h : exec (.nibble b) s = .next { s with result := .nibble v }) : digitValue b = some v := by
  cases hb : digitValue b with
  | none =>
    rw [exec_nibble_of_digitValue_none hb] at h
    simp at h
  | some w =>
    rw [exec_nibble_of_digitValue hb] at h
    simpa using h

/-! ### `hex` by R55's table -/

theorem hexDigit_eq_upperCode (v : Nibble) : hexDigit v = upperCode v.toNat := by
  revert v; decide

theorem toNat_zextNibble (v : Nibble) : (zextNibble v).toNat = v.toNat :=
  BitVec.toNat_setWidth_of_le (by decide)

theorem hexDigit_injective {v w : Nibble} (h : hexDigit v = hexDigit w) : v = w := by
  have hok : (Except.ok v : Except Err Nibble) = .ok w := by rw [← nibble_hexDigit v, h, nibble_hexDigit]
  exact Except.ok.inj hok

/-- R82's case folding. -/
theorem hexDigit_getD_digitValue (b : Byte) : digitValue b ≠ none → hexDigit ((digitValue b).getD 0) = upcase b := by
  revert b; decide

theorem exec_hex (v : Byte) (s : State) :
    exec (.hex v) s = .next { s with result := Result.ofExcept .byte (hex v) } := rfl

theorem exec_hex_zextNibble (v : Nibble) (s : State) :
    exec (.hex (zextNibble v)) s = .next { s with result := .byte (hexDigit v) } := by
  rw [exec_hex, hex_of_le _ (zextNibble_le v), lowNibble_zextNibble]
  rfl

theorem exec_hex_of_gt (v : Byte) (h : ¬ v ≤ 0x0F) (s : State) :
    exec (.hex v) s = .next { s with result := .err ⟨.invalidHexDigit, some v⟩ } := by
  rw [exec_hex, hex, if_neg h]
  rfl

/-! ### The obligations -/

/-- Settles O36: by whether R55's table has the byte. -/
theorem nibbleConvertsDigits : Obligations.NibbleConvertsDigits := by
  unfold Obligations.NibbleConvertsDigits
  intro b s
  cases hb : digitValue b with
  | none => exact exec_nibble_of_digitValue_none hb s
  | some v => exact exec_nibble_of_digitValue hb s

/-- Settles O37: a value up to 15 is a nibble, whose digit is the table's; any other is the error. -/
theorem hexProducesUpperCase : Obligations.HexProducesUpperCase := by
  unfold Obligations.HexProducesUpperCase
  intro v s
  by_cases hv : v.toNat ≤ 15
  · rw [if_pos hv]
    obtain ⟨n, rfl⟩ : ∃ n, v = zextNibble n := ⟨lowNibble v, (zextNibble_lowNibble v (BitVec.le_def.mpr hv)).symm⟩
    rw [exec_hex_zextNibble, hexDigit_eq_upperCode, toNat_zextNibble]
  · rw [if_neg hv, exec_hex_of_gt v (mt BitVec.le_def.mp hv)]

/-- Settles O38: `nibble` undoes `hex` on the digit `hexDigit v`, and so `hex` is injective; the rest is R55's table. -/
theorem nibbleCodecLaws : Obligations.NibbleCodecLaws := by
  unfold Obligations.NibbleCodecLaws
  refine ⟨fun v s => ⟨hexDigit v, exec_hex_zextNibble v s, ?_⟩, fun b s hb => exec_nibble_of_digitValue_none hb s,
    fun b v s h => ?_, fun v w s h => ?_⟩
  · rw [exec_nibble, nibble_hexDigit]
    rfl
  · have hb := digitValue_of_exec_nibble h
    have hfold : hexDigit v = upcase b := by simpa [hb] using hexDigit_getD_digitValue b
    exact hfold ▸ exec_hex_zextNibble v s
  · have hstates := (exec_hex_zextNibble v s).symm.trans (h.trans (exec_hex_zextNibble w s))
    exact hexDigit_injective (by simpa using hstates)

end Sys2Proof.Machine
end

section
/-! SUPPORT. `csum`, `valid` and `mkcsum` against the sum of naturals modulo 256 (41_checksum.md R85 to R89). -/

open Sys2Proof Sys2Proof.Claims

namespace Sys2Proof.Machine

/-! ### The wrapping sum as a number -/

theorem sumOf_cons (b : Byte) (s : List Byte) : sumOf (b :: s) = (b.toNat + sumOf s) % 256 := by
  simp [sumOf]

@[simp] theorem toNat_csum (s : List Byte) : (csum s).toNat = sumOf s := by
  induction s with
  | nil => rfl
  | cons b s ih => rw [csum_cons, BitVec.toNat_add, ih, sumOf_cons]

theorem csum_eq_ofNat_sumOf (s : List Byte) : csum s = BitVec.ofNat 8 (sumOf s) := by
  rw [← toNat_csum, BitVec.ofNat_toNat, BitVec.setWidth_eq]

theorem csum_eq_iff (s : List Byte) (b : Byte) : csum s = b ↔ sumOf s = b.toNat := by
  rw [← toNat_csum, BitVec.toNat_inj]

/-! ### Validity and the completing byte -/

theorem valid_iff_acceptable (s : List Byte) : valid s = true ↔ Acceptable s := by
  rw [valid_iff, csum_eq_iff, csum_eq_iff]
  rfl

/-- R89's law: the byte of `mkcsum` makes the sum 0x55. -/
@[simp] theorem csum_sealed (s : List Byte) : csum (sealed s) = 0x55 := by
  rw [sealed, csum_append_byte, mkcsum, BitVec.add_comm, BitVec.sub_add_cancel]

@[simp] theorem sumOf_sealed (s : List Byte) : sumOf (sealed s) = 0x55 :=
  (csum_eq_iff _ _).mp (csum_sealed s)

theorem acceptable_sealed (s : List Byte) : Acceptable (sealed s) :=
  ⟨List.concat_ne_nil _ s, .inr (sumOf_sealed s)⟩

/-! ### The operations -/

theorem exec_csum (bs : List Byte) (s : State) :
    exec (.csum bs) s = .next { s with result := .byte (csum bs) } := rfl

theorem exec_valid (bs : List Byte) (s : State) :
    exec (.valid bs) s = .next { s with result := .bool (valid bs) } := rfl

theorem exec_mkcsum (bs : List Byte) (s : State) :
    exec (.mkcsum bs) s = .next { s with result := .byte (mkcsum bs) } := rfl

/-! ### The obligations -/

/-- Settles O39: the byte of `csum` is the sum of naturals modulo 256, by induction on the bytes (`toNat_csum`). -/
theorem csumIsWrappingSum : Obligations.CsumIsWrappingSum := by
  unfold Obligations.CsumIsWrappingSum
  intro bs s
  rw [exec_csum, csum_eq_ofNat_sumOf]

/-- Settles O40: `valid` is the predicate of R87 on any sequence, the decoder's buffer among them. -/
theorem validAcceptsBothSums : Obligations.ValidAcceptsBothSums := by
  unfold Obligations.ValidAcceptsBothSums
  intro bs s
  exact ⟨valid bs, exec_valid bs s, valid_iff_acceptable bs, valid_iff_acceptable s.dec.rbuf⟩

/-- Settles O41: the sequence with its completing byte is `sealed bs`, whose sum is 0x55. -/
theorem mkcsumCompletesTo55 : Obligations.MkcsumCompletesTo55 := by
  unfold Obligations.MkcsumCompletesTo55
  intro bs s
  have hbyte : mkcsum bs = 0x55 - BitVec.ofNat 8 (sumOf bs) := by rw [mkcsum, csum_eq_ofNat_sumOf]
  exact ⟨mkcsum bs, exec_mkcsum bs s, hbyte, sumOf_sealed bs, acceptable_sealed bs⟩

end Sys2Proof.Machine
end

section
/-! SUPPORT. The two round trips of a hex frame between its bytes and the wire (42_frame_decoder.md R106). -/

open Sys2Proof Sys2Proof.Claims

namespace Sys2Proof.Machine

/-- The digits of a byte on the wire, high nibble first (20_memory.md R32). -/
def digitPair (b : Byte) : Byte × Byte := (hexDigit (highNibble b), hexDigit (lowNibble b))

/-- `encode(f)` is a wire string of the hex grammar (30_encoding.md R51). -/
theorem spell_eq_hexWire (id : Byte) (rest : List Byte) :
    spell (id :: rest) = hexWire (hexDigit (lowNibble id)) (rest.map digitPair) := by
  rw [hexWire, List.flatMap_map]
  rfl

@[simp] theorem digitValue_hexDigit (v : Nibble) : digitValue (hexDigit v) = some v := by
  revert v; decide

theorem allDigits_digitPair (v : Nibble) (rest : List Byte) : AllDigits (hexDigit v) (rest.map digitPair) := by
  simp [AllDigits, digitPair]

theorem pairBytes_digitPair (rest : List Byte) : pairBytes (rest.map digitPair) = rest := by
  simp [pairBytes, digitPair, Function.comp_def, shiftedNibble_or_zextNibble]

/-- The digits of a frame have the frame as their buffer (R63). -/
theorem hexBuffer_digitPair (id : Byte) (rest : List Byte) (hid : id ≤ 0x0F) :
    hexBuffer (hexDigit (lowNibble id)) (rest.map digitPair) = id :: rest := by
  rw [hexBuffer_eq, digitValue_hexDigit, pairBytes_digitPair, Option.getD_some, zextNibble_lowNibble id hid]

theorem lowNibble_shiftedNibble_or_zextNibble (v w : Nibble) : lowNibble (shiftedNibble v ||| zextNibble w) = w := by
  revert v w; decide

theorem highNibble_shiftedNibble_or_zextNibble (v w : Nibble) :
    highNibble (shiftedNibble v ||| zextNibble w) = v := by
  revert v w; decide

/-- The byte of a pair of digits is spelled as the pair in upper case (40_nibble_codec.md R82). -/
theorem twoDigits_of_digits (p : Byte × Byte) (h1 : digitValue p.1 ≠ none) (h2 : digitValue p.2 ≠ none) :
    twoDigits (shiftedNibble ((digitValue p.1).getD 0) ||| zextNibble ((digitValue p.2).getD 0)) =
      [upcase p.1, upcase p.2] := by
  rw [twoDigits, highNibble_shiftedNibble_or_zextNibble, lowNibble_shiftedNibble_or_zextNibble,
    hexDigit_getD_digitValue p.1 h1, hexDigit_getD_digitValue p.2 h2]

theorem flatMap_twoDigits_pairBytes (ps : List (Byte × Byte))
    (h : ∀ p ∈ ps, digitValue p.1 ≠ none ∧ digitValue p.2 ≠ none) :
    (pairBytes ps).flatMap twoDigits = (ps.flatMap fun p => [p.1, p.2]).map upcase := by
  induction ps with
  | nil => rfl
  | cons p ps ih =>
    obtain ⟨⟨h1, h2⟩, hps⟩ := List.forall_mem_cons.mp h
    rw [pairBytes, List.map_cons, List.flatMap_cons, twoDigits_of_digits p h1 h2, ← pairBytes, ih hps]
    rfl

/-- Spelling the buffer of a wire string gives the string in upper case. -/
theorem spell_hexBuffer (d0 : Byte) (ps : List (Byte × Byte)) (h : AllDigits d0 ps) :
    spell (hexBuffer d0 ps) = (hexWire d0 ps).map upcase := by
  obtain ⟨h0, hps⟩ := h
  rw [hexBuffer_eq, spell, lowNibble_zextNibble, hexDigit_getD_digitValue d0 h0, flatMap_twoDigits_pairBytes ps hps]
  simp [hexWire, upcase]

/-- The frame of a wire string that fits passes the checks of ENC_LOAD (43_frame_encoder.md R111). -/
theorem loadError_hexBuffer (s : State) (d0 : Byte) (ps : List (Byte × Byte)) (hfits : Fits s (ps.length + 1)) :
    loadError s.cfg (hexBuffer d0 ps) = none :=
  loadError_none_of_fits s _ (pairBytes ps) (by simpa [pairBytes] using hfits) (zextNibble_le _)

/-- Settles O28: the spelling of a frame is a wire string with that buffer, and the buffer of a wire string is spelled
as the string in upper case, by induction on the pairs of digits. -/
theorem hexRoundTrips : Obligations.HexRoundTrips := by
  unfold Obligations.HexRoundTrips
  refine ⟨fun s id rest hfits hid => ?_, fun s d0 ps hd hfits => ?_⟩
  · have hencode := exec_encode_spell s (id :: rest) (loadError_none_of_fits s id rest hfits hid)
    have hdecode := hexFrameDecodesToItsBytes s _ _ (allDigits_digitPair (lowNibble id) rest)
      (by simpa using hfits)
    rw [← spell_eq_hexWire, hexBuffer_digitPair id rest hid] at hdecode
    exact ⟨_, _, hencode, hdecode, rfl⟩
  · have hencode := exec_encode_spell s _ (loadError_hexBuffer s d0 ps hfits)
    rw [spell_hexBuffer d0 ps hd] at hencode
    exact ⟨_, _, hexFrameDecodesToItsBytes s d0 ps hd hfits, rfl, hencode⟩

end Sys2Proof.Machine
end

section
/-! SUPPORT. PUSH by state and byte, as the transition table of 42_frame_decoder.md R109 has it, and by any of its
rows; CLEAR and the observations. -/

open Sys2Proof Sys2Proof.Claims

namespace Sys2Proof.Machine

/-! ### The rows of PUSH -/

/-- A byte-class row is PUSH of its byte (30_encoding.md R54). -/
theorem exec_eq_push_of_mem_classRows {i : Instr} {c : Byte} (h : (i, c) ∈ classRows) (s : State) :
    exec i s = exec (.push c) s :=
  have hrows : classRows.map (fun row => exec row.1 s) = classRows.map fun row => exec (.push row.2) s := rfl
  List.map_inj_left.mp hrows (i, c) h

theorem exec_eq_push_of_isPush {i : Instr} {c : Byte} (h : IsPush i c) (s : State) : exec i s = exec (.push c) s := by
  rcases h with rfl | rfl | h
  · rfl
  · rfl
  · exact exec_eq_push_of_mem_classRows h s

/-- Any row of PUSH writes what the decoder's PUSH gives, and nothing else. -/
theorem exec_of_isPush {i : Instr} {c : Byte} (h : IsPush i c) {s : State} {d : Decoder} {e : Option Err}
    (hp : s.dec.push s.cfg c = (d, e)) : exec i s = .next { s with dec := d, result := Result.ofErr e } := by
  rw [exec_eq_push_of_isPush h, exec_push, hp]

/-! ### PUSH in each state -/

theorem Decoder.full_eq_true_iff (cfg : Config) (d : Decoder) : d.full cfg = true ↔ cfg.bufCap = some d.rbuf.length :=
  decide_eq_true_iff

theorem Decoder.full_eq_false_iff (cfg : Config) (d : Decoder) :
    d.full cfg = false ↔ cfg.bufCap ≠ some d.rbuf.length :=
  decide_eq_false_iff_not

theorem nibble_of_digitValue_some {c : Byte} {v : Nibble} (h : digitValue c = some v) : nibble c = .ok v := by
  rw [nibble_of_digitValue c (by simp [h]), h]
  rfl

section
variable {cfg : Config} {c : Byte} {d : Decoder}

/-- R92. -/
theorem Decoder.push_start_text (hf : d.ferr = .none) (hs : d.state = .start) (hc : c ≠ 0x3A)
    (ht : cfg.textEn = true) : d.push cfg c = (d.openText c, none) := by
  rw [d.push_start cfg c hf hs, Decoder.pushStart, if_neg hc, if_pos ht]

/-- R93. -/
theorem Decoder.push_start_drop (hf : d.ferr = .none) (hs : d.state = .start) (hc : c ≠ 0x3A)
    (ht : cfg.textEn = false) : d.push cfg c = (d.dropByte, none) := by
  rw [d.push_start cfg c hf hs, Decoder.pushStart, if_neg hc, if_neg (by simp [ht])]

/-- R94. -/
theorem Decoder.push_low_digit {v : Nibble} (hf : d.ferr = .none) (hs : d.state = .lowNibble)
    (hc : digitValue c = some v) : d.push cfg c = (d.completeByte v, none) := by
  rw [d.push_low cfg c hf hs, Decoder.pushLow, nibble_of_digitValue_some hc]

/-- R95. -/
theorem Decoder.push_low_nonDigit (hf : d.ferr = .none) (hs : d.state = .lowNibble) (hc : digitValue c = none) :
    d.push cfg c = d.raise .invalidHexDigit c := by
  rw [d.push_low cfg c hf hs, Decoder.pushLow, nibble_of_digitValue_none c hc]

/-- R96. -/
theorem Decoder.push_high_newline (hf : d.ferr = .none) (hs : d.state = .highNibble) :
    d.push cfg 0x0A = (d.finish, none) := by
  rw [d.push_high cfg _ hf hs, Decoder.pushHigh, if_pos rfl]

/-- R97, first case: the digit is converted before the room is looked at. -/
theorem Decoder.push_high_nonDigit (hf : d.ferr = .none) (hs : d.state = .highNibble) (hc : c ≠ 0x0A)
    (hv : digitValue c = none) : d.push cfg c = d.raise .invalidHexDigit c := by
  rw [d.push_high cfg c hf hs, Decoder.pushHigh, if_neg hc, nibble_of_digitValue_none c hv]

/-- R97, a digit with a full buffer. -/
theorem Decoder.push_high_full (hf : d.ferr = .none) (hs : d.state = .highNibble) (hv : digitValue c ≠ none)
    (hu : cfg.bufCap = some d.rbuf.length) : d.push cfg c = d.raise .lengthMismatch c := by
  rw [d.push_high cfg c hf hs, Decoder.pushHigh, if_neg (ne_newline_of_digitValue c hv), nibble_of_digitValue c hv]
  exact if_pos ((d.full_eq_true_iff cfg).mpr hu)

/-- R97, a digit with room. -/
theorem Decoder.push_high_digit {v : Nibble} (hf : d.ferr = .none) (hs : d.state = .highNibble)
    (hv : digitValue c = some v) (hu : cfg.bufCap ≠ some d.rbuf.length) :
    d.push cfg c = (d.startByte v, none) := by
  have hroom := (d.full_eq_false_iff cfg).mpr hu
  rw [d.push_high cfg c hf hs, Decoder.pushHigh, if_neg (ne_newline_of_digitValue c (by simp [hv])),
    nibble_of_digitValue_some hv]
  exact if_neg (by simp [hroom])

/-- R98, a full buffer. -/
theorem Decoder.push_text_full (hf : d.ferr = .none) (hs : d.state = .text)
    (hu : cfg.bufCap = some d.rbuf.length) : d.push cfg c = d.raise .lengthMismatch c := by
  rw [d.push_text cfg c hf hs, Decoder.pushText, if_pos ((d.full_eq_true_iff cfg).mpr hu)]

/-- R98, with room. -/
theorem Decoder.push_text_store (hf : d.ferr = .none) (hs : d.state = .text)
    (hu : cfg.bufCap ≠ some d.rbuf.length) : d.push cfg c = (d.storeText c, none) := by
  have hroom := (d.full_eq_false_iff cfg).mpr hu
  rw [d.push_text cfg c hf hs, Decoder.pushText, if_neg (by simp [hroom])]

/-- R94: what completing the last byte writes. -/
theorem Decoder.completeByte_eq {v : Nibble} {before : List Byte} {last : Byte} (h : d.rbuf = before ++ [last]) :
    d.completeByte v = { d with rbuf := before ++ [last ||| zextNibble v], state := .highNibble } := by
  rw [Decoder.completeByte, h, orLast_append]

/-- The model's marker test is the marker predicate (00_scope.md R7). -/
theorem endsWith_marker_iff (s : List Byte) : endsWith s marker = true ↔ EndsWithMarker s :=
  endsWith_iff s marker

/-- R98: the byte after MARKER completes the block. -/
theorem Decoder.storeText_of_marker (h : EndsWithMarker d.rbuf) :
    d.storeText c = { d with rbuf := d.rbuf ++ [c], state := .start } := by
  rw [Decoder.storeText, if_pos ((endsWith_marker_iff _).mpr h)]
  rfl

/-- R98: any other byte goes into the block. -/
theorem Decoder.storeText_of_no_marker (h : ¬ EndsWithMarker d.rbuf) :
    d.storeText c = { d with rbuf := d.rbuf ++ [c], state := .text } := by
  rw [Decoder.storeText, if_neg (mt (endsWith_marker_iff _).mp h)]
  rfl

theorem Decoder.done_iff : d.done = true ↔ d.state = .start ∧ d.rbuf ≠ [] := by
  simp [Decoder.done, List.length_pos_iff]

theorem Decoder.fault_iff : d.fault = true ↔ d.ferr ≠ .none :=
  decide_eq_true_iff

/-- 10_state.md R17: a fault holds the decoder outside Start, where `done` is 0. -/
theorem Decoder.Inv.not_done_and_fault (h : d.Inv cfg) : ¬ (d.done = true ∧ d.fault = true) := by
  rintro ⟨hd, hf⟩
  exact h.faulted (Decoder.fault_iff.mp hf) (Decoder.done_iff.mp hd).1

end

/-! ### CLEAR, RESET and the observations -/

theorem exec_reset (s : State) :
    exec .reset s = .next { s with dec := Decoder.afterReset, enc := Encoder.afterReset, result := .none } := rfl

theorem exec_frame (s : State) : exec .frame s = .next { s with result := .bytes s.dec.rbuf } := rfl

theorem exec_done (s : State) : exec .done s = .next { s with result := .bool s.dec.done } := rfl

/-! ### The obligations -/

/-- Settles O10: R91's transition, and the placeholder byte's sum is 0x00. -/
theorem colonInStartOpensHexFrame : Obligations.ColonInStartOpensHexFrame := by
  unfold Obligations.ColonInStartOpensHexFrame
  intro i s hi hf hs
  exact ⟨_, exec_of_isPush hi (s.dec.push_start_colon s.cfg hs hf), rfl, rfl, rfl⟩

/-- Settles O11 by R92's transition, for any row of PUSH. -/
theorem otherByteInStartOpensText : Obligations.OtherByteInStartOpensText := by
  unfold Obligations.OtherByteInStartOpensText
  intro i c s hi hc ht hf hs
  exact ⟨_, exec_of_isPush hi (Decoder.push_start_text hf hs hc ht), rfl, rfl⟩

/-- Settles O12 by R93's transition, for any row of PUSH. -/
theorem otherByteInStartIsDropped : Obligations.OtherByteInStartIsDropped := by
  unfold Obligations.OtherByteInStartIsDropped
  intro i c s hi hc ht hf hs
  exact ⟨_, exec_of_isPush hi (Decoder.push_start_drop hf hs hc ht), rfl, rfl⟩

/-- Settles O13 by R94's transition: the OR falls on the byte at the end of the buffer. -/
theorem digitCompletesLastByte : Obligations.DigitCompletesLastByte := by
  unfold Obligations.DigitCompletesLastByte
  intro i c v s before last hi hc hf hs hbuf
  have hpush := exec_of_isPush hi (Decoder.push_low_digit hf hs hc)
  rw [Decoder.completeByte_eq hbuf] at hpush
  exact ⟨_, hpush, rfl, rfl⟩

/-- Settles O14 by R95's transition: a byte that R55's table lacks is an error of `nibble`. -/
theorem nonDigitInLowNibbleRaises : Obligations.NonDigitInLowNibbleRaises := by
  unfold Obligations.NonDigitInLowNibbleRaises
  intro i c s hi hc hf hs
  exact exec_of_isPush hi (Decoder.push_low_nonDigit hf hs hc)

/-- Settles O15: the buffer is as before the byte, so `done` and `valid` speak of it. -/
theorem newlineInHighNibbleCompletes : Obligations.NewlineInHighNibbleCompletes := by
  unfold Obligations.NewlineInHighNibbleCompletes
  intro i s hi hf hs hbuf
  exact ⟨_, exec_of_isPush hi (Decoder.push_high_newline hf hs), rfl, Decoder.done_iff.mpr ⟨rfl, hbuf⟩,
    valid_iff_acceptable s.dec.rbuf⟩

/-- Settles O16: by whether the byte is a digit, then by whether there is room. -/
theorem byteInHighNibbleStartsByteOrRaises : Obligations.ByteInHighNibbleStartsByteOrRaises := by
  unfold Obligations.ByteInHighNibbleStartsByteOrRaises
  intro i c s hi hc hf hs
  exact ⟨fun hv => exec_of_isPush hi (Decoder.push_high_nonDigit hf hs hc hv),
    fun hv hfull => exec_of_isPush hi (Decoder.push_high_full hf hs hv hfull),
    fun v hv hroom => exec_of_isPush hi (Decoder.push_high_digit hf hs hv hroom)⟩

/-- Settles O17: by whether there is room, then by whether MARKER came before the byte. -/
theorem byteInTextIsStored : Obligations.ByteInTextIsStored := by
  unfold Obligations.ByteInTextIsStored
  intro i c s hi hf hs
  refine ⟨fun hfull => exec_of_isPush hi (Decoder.push_text_full hf hs hfull), fun hroom hm => ?_, fun hroom hm => ?_⟩
  · have hpush := exec_of_isPush hi (Decoder.push_text_store hf hs hroom)
    rw [Decoder.storeText_of_marker hm] at hpush
    exact ⟨_, hpush, rfl, Decoder.done_iff.mpr ⟨rfl, List.concat_ne_nil _ _⟩⟩
  · have hpush := exec_of_isPush hi (Decoder.push_text_store hf hs hroom)
    rwa [Decoder.storeText_of_no_marker hm] at hpush

/-- Settles O22: CLEAR and RESET leave the same decoder but for `fmt`. -/
theorem clearReturnsToStart : Obligations.ClearReturnsToStart := by
  unfold Obligations.ClearReturnsToStart
  intro s
  refine ⟨_, exec_clear s, rfl, rfl, rfl, rfl, fun u hu => ?_⟩
  obtain rfl := Host.Outcome.next.inj ((exec_reset s).symm.trans hu)
  rfl

/-- Settles O24: the observations are equations; R17's exclusion is the invariant's item on a fault. -/
theorem observationsReadTheDecoder : Obligations.ObservationsReadTheDecoder := by
  unfold Obligations.ObservationsReadTheDecoder
  intro s
  refine ⟨?_, exec_frame s, fun hinv => hinv.dec.not_done_and_fault⟩
  rw [exec_done, Decoder.done, Bool.decide_and]

end Sys2Proof.Machine
end

section
/-! SUPPORT. ENC_LOAD's checks in order (43_frame_encoder.md R111), and ENC_NEXT's byte at each place of the sequence
(R112). -/

open Sys2Proof Sys2Proof.Claims

namespace Sys2Proof.Machine

/-! ### ENC_LOAD -/

theorem overCapacity_iff_not_fits (s : State) (n : Nat) : overCapacity s.cfg n = true ↔ ¬ Fits s n := by
  cases hc : s.cfg.bufCap <;> simp [overCapacity, Fits, hc]

/-- R111's first check, which comes before the look at the id. -/
theorem loadError_of_length {s : State} {f : List Byte} (h : f = [] ∨ ¬ Fits s f.length) :
    loadError s.cfg f = some ⟨.lengthMismatch, none⟩ := by
  cases f with
  | nil => rfl
  | cons id rest =>
    have hlong : ¬ Fits s (id :: rest).length := h.resolve_left (List.cons_ne_nil id rest)
    exact if_pos ((overCapacity_iff_not_fits s _).mpr hlong)

/-- R111's second check. -/
theorem loadError_of_id {s : State} {id : Byte} {rest : List Byte} (hfits : Fits s (rest.length + 1))
    (hid : 0x0F < id) : loadError s.cfg (id :: rest) = some ⟨.encInvariant, some id⟩ := by
  have hroom : overCapacity s.cfg (id :: rest).length = false := overCapacity_eq_false_of_fits s _ hfits
  simp only [loadError, hroom, hid, Bool.false_eq_true, if_false, if_true]

/-- A refused ENC_LOAD (60_exceptions.md R168). -/
theorem exec_encLoad_of_error {s : State} {f : List Byte} {err : Err} (h : loadError s.cfg f = some err) :
    exec (.encLoad f) s =
      .next { s with enc := { s.enc with tferr := err.kind, tact := false }, result := .err err } := by
  simp [exec_encLoad, Encoder.load, h, Encoder.raise, Result.ofErr]

/-- Settles O32: by which of R111's checks the frame fails first. -/
theorem encLoadLoadsOrFaults : Obligations.EncLoadLoadsOrFaults := by
  unfold Obligations.EncLoadLoadsOrFaults
  intro s f
  refine ⟨fun h => exec_encLoad_of_error (loadError_of_length h), ?_, ?_⟩
  · rintro id rest rfl hfits hid
    exact exec_encLoad_of_error (loadError_of_id hfits hid)
  · rintro id rest rfl hfits hid
    exact exec_encLoad_atPlace s id rest (loadError_none_of_fits s id rest hfits hid)

/-! ### The byte at each place -/

@[simp] theorem toNat_lowNibble (b : Byte) : (lowNibble b).toNat = b.toNat % 16 := by
  simp [lowNibble]

@[simp] theorem toNat_highNibble (b : Byte) : (highNibble b).toNat = b.toNat / 16 := by
  have hlt : b.toNat < 256 := b.isLt
  simp only [highNibble, BitVec.extractLsb'_toNat, Nat.shiftRight_eq_div_pow]
  omega

theorem hexDigit_highNibble (b : Byte) : hexDigit (highNibble b) = upperCode (b.toNat / 16) := by
  rw [hexDigit_eq_upperCode, toNat_highNibble]

theorem hexDigit_lowNibble (b : Byte) : hexDigit (lowNibble b) = upperCode (b.toNat % 16) := by
  rw [hexDigit_eq_upperCode, toNat_lowNibble]

theorem hexDigit_lowNibble_of_le (b : Byte) (h : b ≤ 0x0F) : hexDigit (lowNibble b) = upperCode b.toNat := by
  have hlt : b.toNat < 16 := Nat.lt_succ_of_le (BitVec.le_def.mp h)
  rw [hexDigit_lowNibble, Nat.mod_eq_of_lt hlt]

section
variable {e : Encoder}

theorem Encoder.nextByte_colon (hp : e.tpos = 0) : e.nextByte = some 0x3A := by
  rw [Encoder.nextByte, if_pos hp]

theorem Encoder.nextByte_id {id : Byte} {rest : List Byte} (hb : e.tbuf = id :: rest) (hid : id ≤ 0x0F)
    (hp : e.tpos = 1) : e.nextByte = some (upperCode id.toNat) := by
  simp [Encoder.nextByte, hp, hb, readByte, hex_of_le id hid, Except.toOption, hexDigit_lowNibble_of_le id hid]

/-- The places between the id's digit and the LF: `i = p div 2` selects the byte. -/
theorem Encoder.nextByte_digit {k : Nat} {x : Byte} (hk : 1 ≤ k) (hx : e.tbuf[k]? = some x)
    (hp : e.tpos / 2 = k) :
    e.nextByte = some (if e.tpos % 2 = 0 then hexDigit (highNibble x) else hexDigit (lowNibble x)) := by
  obtain ⟨hlt, -⟩ := List.getElem?_eq_some_iff.mp hx
  have h0 : e.tpos ≠ 0 := by omega
  have h1 : e.tpos ≠ 1 := by omega
  have hin : e.tpos < 2 * e.tlen := by rw [Encoder.tlen]; omega
  simp [Encoder.nextByte, h0, h1, hin, hp, readByte, hx]

theorem Encoder.nextByte_highDigit {k : Nat} {x : Byte} (hk : 1 ≤ k) (hx : e.tbuf[k]? = some x)
    (hp : e.tpos = 2 * k) : e.nextByte = some (upperCode (x.toNat / 16)) := by
  rw [Encoder.nextByte_digit hk hx (by omega), if_pos (by omega), hexDigit_highNibble]

theorem Encoder.nextByte_lowDigit {k : Nat} {x : Byte} (hk : 1 ≤ k) (hx : e.tbuf[k]? = some x)
    (hp : e.tpos = 2 * k + 1) : e.nextByte = some (upperCode (x.toNat % 16)) := by
  rw [Encoder.nextByte_digit hk hx (by omega), if_neg (by omega), hexDigit_lowNibble]

theorem Encoder.nextByte_newline (hb : e.tbuf ≠ []) (hp : e.tpos = 2 * e.tbuf.length) : e.nextByte = some 0x0A := by
  have hpos : 0 < e.tbuf.length := List.length_pos_iff.mpr hb
  have h0 : e.tpos ≠ 0 := by omega
  have h1 : e.tpos ≠ 1 := by omega
  have hend : ¬ e.tpos < 2 * e.tlen := by rw [Encoder.tlen]; omega
  rw [Encoder.nextByte, if_neg h0, if_neg h1, if_neg hend]

/-- A place up to the LF has a byte (40_nibble_codec.md R83). -/
theorem Encoder.exists_nextByte_of_le {id : Byte} {rest : List Byte} (hb : e.tbuf = id :: rest) (hid : id ≤ 0x0F)
    (hp : e.tpos ≤ 2 * e.tbuf.length) : ∃ b, e.nextByte = some b := by
  have hle : e.tpos ≤ 2 * (rest.length + 1) := by simpa [hb] using hp
  have hlt : e.tpos < (spell (id :: rest)).length := by rw [spell_length]; omega
  exact ⟨_, (e.nextByte_eq_spell id rest hb hid hle).trans (List.getElem?_eq_getElem hlt)⟩

/-- `tact` falls with the LF and at no other place. -/
theorem Encoder.advance_of_tact (h : e.tact = true) :
    e.advance = { e with tpos := e.tpos + 1, tact := decide (e.tpos ≠ 2 * e.tbuf.length) } := by
  by_cases hlast : e.tpos = 2 * e.tbuf.length <;> simp [Encoder.advance, Encoder.tlen, h, hlast]

end

/-! ### ENC_NEXT -/

/-- `tx_data` shows the byte that ENC_NEXT will yield (10_state.md R20). -/
theorem portOut_txData_of_nextByte {s : State} {b : Byte} (rdIdx : Nat) (h : s.enc.tact = true)
    (hb : s.enc.nextByte = some b) : (portOut rdIdx s).txData = b := by
  simp [portOut, State.txData, h, hb]

/-- Settles O33: the place has one byte (`Encoder.exists_nextByte_of_le`), and each kind of place says which. -/
theorem encNextYieldsSequence : Obligations.EncNextYieldsSequence := by
  unfold Obligations.EncNextYieldsSequence
  refine ⟨exec_encNext_idle, fun s id rest hact hbuf hid hpos => ?_⟩
  obtain ⟨b, hb⟩ := Encoder.exists_nextByte_of_le hbuf hid hpos
  have hbyte {c : Byte} (hc : s.enc.nextByte = some c) : b = c := Option.some.inj (hb.symm.trans hc)
  have hstep := exec_encNext_live s b hact hb
  rw [Encoder.advance_of_tact hact] at hstep
  exact ⟨b, hstep, portOut_txData_of_nextByte 0 hact hb,
    fun h0 => hbyte (Encoder.nextByte_colon h0),
    fun h1 => hbyte (Encoder.nextByte_id hbuf hid h1),
    fun k x hk hx => ⟨fun hp => hbyte (Encoder.nextByte_highDigit hk hx hp),
      fun hp => hbyte (Encoder.nextByte_lowDigit hk hx hp)⟩,
    fun hlast => hbyte (Encoder.nextByte_newline (by simp [hbuf]) hlast)⟩

end Sys2Proof.Machine
end

section
/-! SUPPORT. What `build` writes (44_command_builder.md): the value encoder (R131), the flags byte (R129), the frames of
the item commands (R126 to R128) and R133's laws of every built frame. -/

open Sys2Proof Sys2Proof.Claims

namespace Sys2Proof.Machine

/-! ### Multi-byte fields as slices -/

theorem getElem?_leBytes {n i : Nat} (v : Nat) (h : i < n) :
    (leBytes n v)[i]? = some (BitVec.ofNat 8 (v / 256 ^ i)) := by
  induction n generalizing v i with
  | zero => omega
  | succ n ih =>
    cases i with
    | zero => simp [leBytes]
    | succ i => rw [leBytes, List.getElem?_cons_succ, ih _ (by omega), Nat.div_div_eq_div_mul, Nat.pow_succ']

/-- A byte of a field of `n` bytes, as the slice at its place. -/
theorem extractLsb'_ofNat_eq_ofNat_div {n i : Nat} (v : Nat) (h : i < n) :
    (BitVec.ofNat (8 * n) v).extractLsb' (8 * i) 8 = BitVec.ofNat 8 (v / 256 ^ i) := by
  have hpow : 256 ^ i = 2 ^ (8 * i) := by rw [Nat.pow_mul]
  apply BitVec.eq_of_getLsbD_eq
  intro j hj
  have hin : j + 8 * i < 8 * n := by omega
  simp only [BitVec.getLsbD_extractLsb', BitVec.getLsbD_ofNat, Nat.testBit_div_two_pow, hpow, hj, hin,
    decide_true, Bool.true_and, Nat.add_comm]

/-- The least significant first (20_memory.md R31). -/
theorem leBytes_eq_slices (n v : Nat) :
    leBytes n v = (List.range n).map fun i => (BitVec.ofNat (8 * n) v).extractLsb' (8 * i) 8 := by
  apply List.ext_getElem?
  intro i
  by_cases h : i < n
  · rw [getElem?_leBytes v h, List.getElem?_map, List.getElem?_range h, Option.map_some,
      extractLsb'_ofNat_eq_ofNat_div v h]
  · simp [h]

theorem leBytes_two (v : Nat) :
    leBytes 2 v = [(BitVec.ofNat 16 v).extractLsb' 0 8, (BitVec.ofNat 16 v).extractLsb' 8 8] :=
  leBytes_eq_slices 2 v

theorem leBytes_four (v : Nat) :
    leBytes 4 v = [(BitVec.ofNat 32 v).extractLsb' 0 8, (BitVec.ofNat 32 v).extractLsb' 8 8,
      (BitVec.ofNat 32 v).extractLsb' 16 8, (BitVec.ofNat 32 v).extractLsb' 24 8] :=
  leBytes_eq_slices 4 v

/-! ### Values and flags -/

/-- `venc` writes R131's table. -/
theorem venc_eq_valueBytes (value : Value) : venc value = valueBytes value := by
  cases value with
  | empty => rfl
  | u8 n => rfl
  | i8 n => rfl
  | u16 n => simp [venc, valueBytes, leBytes_two]
  | i16 n => exact leBytes_two _
  | u32 n => simp [venc, valueBytes, leBytes_four]
  | i32 n => exact leBytes_four _
  | ascii s => rfl
  | other b => rfl

/-- The OR of the members' masks is their sum, since no two masks share a bit (30_encoding.md R61). -/
theorem flagbyte_eq_flagMask (flags : Flags) : flagbyte flags = flagMask flags := by
  obtain ⟨u, n, p⟩ := flags
  revert u n p; decide

theorem reservedFlagBits_iff (b : Byte) : reservedFlagBits b = true ↔ b &&& 0xF8 ≠ 0 := bne_iff_ne

theorem flagbyte_and_reserved (flags : Flags) : flagbyte flags &&& 0xF8 = 0 :=
  Decidable.not_not.mp (mt (reservedFlagBits_iff _).mpr (by simp))

theorem itemFlagsBytes_eq (item : Code) (flags : Flags) : itemFlagsBytes item flags = itemAndFlags item flags := by
  simp [itemFlagsBytes, itemAndFlags, leBytes_two, flagbyte_eq_flagMask]

/-! ### The operations -/

theorem exec_venc (value : Value) (s : State) :
    exec (.venc value) s = .next { s with result := .bytes (venc value) } := rfl

theorem exec_flagbyte (flags : Flags) (s : State) :
    exec (.flagbyte flags) s = .next { s with result := .byte (flagbyte flags) } := rfl

theorem exec_build (cmd : Command) (s : State) :
    exec (.build cmd) s = .next { s with result := .bytes (build cmd) } := rfl

/-- A CMD row is `build` of its command (log 11). -/
theorem exec_cmdInstr (cmd : Command) (s : State) : exec (cmdInstr cmd) s = exec (.build cmd) s := by
  cases cmd <;> rfl

/-! ### Built frames -/

/-- A built frame is its code and operands, and one byte that makes the sum 0x55 (R120, 41_checksum.md R89). -/
theorem exec_cmdInstr_checksum {cmd : Command} {code : Byte} {ops : List Byte} (hcode : Command.code cmd = code)
    (hops : Command.operands cmd = ops) (s : State) :
    ∃ ck, exec (cmdInstr cmd) s = .next { s with result := .bytes (code :: ops ++ [ck]) } ∧
      sumOf (code :: ops ++ [ck]) = 0x55 := by
  subst hcode hops
  exact ⟨mkcsum _, exec_cmdInstr cmd s, sumOf_sealed _⟩

theorem operands_get (item : Code) (flags : Flags) :
    Command.operands (.get item flags) = itemAndFlags item flags :=
  itemFlagsBytes_eq item flags

theorem operands_set (item : Code) (flags : Flags) (value : Value) :
    Command.operands (.set item flags value) = itemAndFlags item flags ++ valueBytes value := by
  rw [Command.operands, itemFlagsBytes_eq, venc_eq_valueBytes]

theorem operands_async (item : Code) (flags : Flags) (value : Value) :
    Command.operands (.async item flags value) = itemAndFlags item flags ++ valueBytes value := by
  rw [Command.operands, itemFlagsBytes_eq, venc_eq_valueBytes]

/-- Every command code is one digit on the wire (30_encoding.md R59). -/
theorem Command.code_le (cmd : Command) : Command.code cmd ≤ 0x0F := by
  cases cmd <;> simp [Command.code]

theorem build_eq_cons (cmd : Command) :
    build cmd = Command.code cmd ::
      (Command.operands cmd ++ [mkcsum (Command.code cmd :: Command.operands cmd)]) := rfl

theorem exec_valid_build (cmd : Command) (s : State) :
    exec (.valid (build cmd)) s = .next { s with result := .bool true } := by
  have hvalid : valid (build cmd) = true := (valid_iff_acceptable _).mpr (acceptable_sealed _)
  rw [exec_valid, hvalid]

/-! ### The obligations -/

/-- Settles O44: a built frame is sealed, so its sum is 0x55; its id is one digit, so R106's round trip takes it. -/
theorem builtFramesAreValidAndComeBack : Obligations.BuiltFramesAreValidAndComeBack := by
  unfold Obligations.BuiltFramesAreValidAndComeBack
  intro s cmd
  refine ⟨build cmd, exec_build cmd s, sumOf_sealed _, exec_valid_build cmd s, fun hfits => ?_⟩
  obtain ⟨hframe, -⟩ := hexRoundTrips
  rw [build_eq_cons] at hfits ⊢
  exact hframe s _ _ hfits (Command.code_le cmd)

/-- Settles O43: each row is a built frame; its operands are the item's bytes, the flags byte and the value's bytes. -/
theorem itemCommandFrames : Obligations.ItemCommandFrames := by
  unfold Obligations.ItemCommandFrames
  intro s item flags value
  exact ⟨exec_cmdInstr_checksum rfl (operands_get item flags) s,
    exec_cmdInstr_checksum rfl (operands_set item flags value) s,
    exec_cmdInstr_checksum rfl (operands_async item flags value) s,
    (exec_cmdInstr (.get item flags) s).symm, (exec_cmdInstr (.set item flags value) s).symm,
    (exec_cmdInstr (.async item flags value) s).symm⟩

/-- Settles O47 by the variants of a value: a multi-byte field is its slices, the least significant first. -/
theorem vencWritesTheVariantsBytes : Obligations.VencWritesTheVariantsBytes := by
  unfold Obligations.VencWritesTheVariantsBytes
  intro value s
  rw [exec_venc, venc_eq_valueBytes]

/-- Settles O46: the masks are three distinct bits, all below bit 3. -/
theorem flagbyteIsTheMasks : Obligations.FlagbyteIsTheMasks := by
  unfold Obligations.FlagbyteIsTheMasks
  intro flags s
  exact ⟨flagbyte flags, exec_flagbyte flags s, flagbyte_eq_flagMask flags, flagbyte_and_reserved flags⟩

end Sys2Proof.Machine
end

section
/-! SUPPORT. Requests that are no operation: unassigned command codes, strobes of no event, reserved flag bits
(30_encoding.md R61, R67, R76; layout: log 2). -/

open Sys2Proof Sys2Proof.Claims

namespace Sys2Proof.Machine

/-! ### Where a command or a flags byte is read -/

theorem decode_cmd (code : Byte) (ops : List Byte) :
    decode (code :: 0x02 :: ops) = (decodeCommand code ops).map cmdInstr := rfl

theorem decode_build (code : Byte) (ops : List Byte) :
    decode (0x06 :: 0x06 :: code :: ops) = (decodeCommand code ops).map .build := rfl

theorem decode_send (code : Byte) (ops : List Byte) :
    decode (0x09 :: 0x06 :: code :: ops) = (decodeCommand code ops).map .send := rfl

theorem decode_flagbyte (f : Byte) : decode [0x07, 0x06, f] = (decodeFlags f).map .flagbyte := rfl

theorem decode_decoderStrobes (strobes : Byte) (ops : List Byte) :
    decode (strobes :: 0x04 :: ops) = decodeDecoderStrobes strobes ops := rfl

theorem decode_encoderStrobes (strobes : Byte) (ops : List Byte) :
    decode (strobes :: 0x05 :: ops) = decodeEncoderStrobes strobes ops := rfl

/-- A command that is refused is refused by the same name in each of the three places that take one. -/
theorem decode_of_decodeCommand_error {code : Byte} {ops : List Byte} {e : DecodeError}
    (h : decodeCommand code ops = .error e) :
    decode (code :: 0x02 :: ops) = .error e ∧ decode (0x06 :: 0x06 :: code :: ops) = .error e ∧
      decode (0x09 :: 0x06 :: code :: ops) = .error e := by
  rw [decode_cmd, decode_build, decode_send, h]
  exact ⟨rfl, rfl, rfl⟩

/-! ### Command codes and strobes -/

/-- Every row of the dispatch but the last is one of the eight assigned codes (R59, R67). -/
theorem decodeCommand_unassigned (code : Byte) (ops : List Byte)
    (h : code ∉ [(0x00 : Byte), 0x01, 0x03, 0x04, 0x06, 0x07, 0x08, 0x0A]) :
    decodeCommand code ops = .error (.unassignedCommand code) := by
  have hne : code.toNat ∉ [0x00, 0x01, 0x03, 0x04, 0x06, 0x07, 0x08, 0x0A] := by
    simpa [← BitVec.toNat_inj] using h
  unfold decodeCommand
  split <;> simp_all

/-- Neither RESET = `1xx`, `01x`, nor `001` (30_encoding.md R76). -/
theorem strobes_no_event (strobes : Byte) : strobes = 0x00 ∨ 0x07 < strobes →
    strobes &&& 0xFC ≠ 0x04 ∧ strobes &&& 0xFE ≠ 0x02 ∧ strobes ≠ 0x01 := by
  revert strobes; decide

theorem decodeDecoderStrobes_no_event {strobes : Byte} (ops : List Byte) (h : strobes = 0x00 ∨ 0x07 < strobes) :
    decodeDecoderStrobes strobes ops = .error (.noEvent strobes) := by
  obtain ⟨hreset, hclear, hpush⟩ := strobes_no_event strobes h
  rw [decodeDecoderStrobes, if_neg hreset, if_neg hclear, if_neg hpush]

theorem decodeEncoderStrobes_no_event {strobes : Byte} (ops : List Byte) (h : strobes = 0x00 ∨ 0x07 < strobes) :
    decodeEncoderStrobes strobes ops = .error (.noEvent strobes) := by
  obtain ⟨hreset, hload, hnext⟩ := strobes_no_event strobes h
  rw [decodeEncoderStrobes, if_neg hreset, if_neg hload, if_neg hnext]

/-! ### Flags operands with a reserved bit -/

section
variable {f : Byte} (hf : f &&& 0xF8 ≠ 0) (a b : Byte) (v : List Byte)
include hf

theorem decodeFlags_reserved : decodeFlags f = .error (.reservedFlagsOperand f) := by
  rw [decodeFlags, if_pos ((reservedFlagBits_iff f).mpr hf)]

theorem decodeItemFlags_reserved : decodeItemFlags [a, b, f] = .error (.reservedFlagsOperand f) := by
  rw [decodeItemFlags, decodeFlags_reserved hf]
  rfl

/-- The flags are looked at before the value. -/
theorem decodeItemFlagsValue_reserved :
    decodeItemFlagsValue (a :: b :: f :: v) = .error (.reservedFlagsOperand f) := by
  have htake : (a :: b :: f :: v).take 3 = [a, b, f] := rfl
  rw [decodeItemFlagsValue, htake, decodeItemFlags_reserved hf]

theorem decodeCommand_get_reserved : decodeCommand 0x07 [a, b, f] = .error (.reservedFlagsOperand f) :=
  congrArg (Except.map _) (decodeItemFlags_reserved hf a b)

theorem decodeCommand_set_reserved :
    decodeCommand 0x08 (a :: b :: f :: v) = .error (.reservedFlagsOperand f) :=
  congrArg (Except.map _) (decodeItemFlagsValue_reserved hf a b v)

theorem decodeCommand_async_reserved :
    decodeCommand 0x0A (a :: b :: f :: v) = .error (.reservedFlagsOperand f) :=
  congrArg (Except.map _) (decodeItemFlagsValue_reserved hf a b v)

theorem decode_flagbyte_reserved : decode [0x07, 0x06, f] = .error (.reservedFlagsOperand f) := by
  rw [decode_flagbyte, decodeFlags_reserved hf]
  rfl

end

/-- Settles O60: a refused command is refused alike in the CMD format, in `build` and in SEND; so it is enough that
`decodeCommand` names the code or the flags byte. -/
theorem undecodableRequestsAreNamed : Obligations.UndecodableRequestsAreNamed := by
  unfold Obligations.UndecodableRequestsAreNamed
  refine ⟨fun code ops h => decode_of_decodeCommand_error (decodeCommand_unassigned code ops h),
    fun strobes ops h => ⟨decodeDecoderStrobes_no_event ops h, decodeEncoderStrobes_no_event ops h⟩,
    fun a b f v hf => ⟨decode_flagbyte_reserved hf, ?_, ?_⟩⟩
  · obtain ⟨hcmd, hbuild, hsend⟩ := decode_of_decodeCommand_error (decodeCommand_get_reserved hf a b)
    simp only [List.forall_mem_cons]
    exact ⟨hcmd, hbuild, hsend, nofun⟩
  · obtain ⟨hsetCmd, hsetBuild, hsetSend⟩ :=
      decode_of_decodeCommand_error (decodeCommand_set_reserved hf a b v)
    obtain ⟨hasyncCmd, hasyncBuild, hasyncSend⟩ :=
      decode_of_decodeCommand_error (decodeCommand_async_reserved hf a b v)
    simp only [List.forall_mem_cons]
    exact ⟨hsetCmd, hasyncCmd, hsetBuild, hasyncBuild, hsetSend, hasyncSend, nofun⟩

end Sys2Proof.Machine
end

section
/-! SUPPORT. `guess` types value bytes by their number alone (45_response_parser.md R151), after `venc` too (R153). -/

open Sys2Proof Sys2Proof.Claims

namespace Sys2Proof.Machine

/-! ### Typing by width -/

/-- `guess` is R151's table: the widths 0, 1, 2 and 4 have a type, every other keeps its bytes. -/
theorem guess_eq_typed (v : List Byte) : guess v = typed v := by
  match v with
  | [] => rfl
  | [a] => simp [guess, typed, memRead, leNat]
  | [a, b] => rfl
  | [a, b, c] => rfl
  | [a, b, c, d] =>
    have hsum : a.toNat + 256 * (b.toNat + 256 * (c.toNat + 256 * d.toNat))
        = a.toNat + 256 * b.toNat + 65536 * c.toNat + 16777216 * d.toNat := by omega
    simp [guess, typed, memRead, leNat, hsum]
  | a :: b :: c :: d :: e :: v => rfl

/-- Reading back a whole field of `n` bytes. -/
theorem memRead_leBytes (n v : Nat) : memRead (leBytes n v) 0 n = v % 256 ^ n := by
  have h := memRead_zero_append (leBytes n v) []
  rwa [List.append_nil, leBytes_length, leNat_leBytes] at h

theorem guess_leBytes_one (v : Nat) : guess (leBytes 1 v) = .u8 (BitVec.ofNat 8 v) := by
  simp [guess, memRead_leBytes, ← BitVec.toNat_inj]

theorem guess_leBytes_two (v : Nat) : guess (leBytes 2 v) = .u16 (BitVec.ofNat 16 v) := by
  simp [guess, memRead_leBytes, ← BitVec.toNat_inj]

theorem guess_leBytes_four (v : Nat) : guess (leBytes 4 v) = .u32 (BitVec.ofNat 32 v) := by
  simp [guess, memRead_leBytes, ← BitVec.toNat_inj]

/-- A field of an integer variant comes back as the unsigned number of its width. -/
theorem guess_venc (value : Value) : guess (venc value) = regained value := by
  cases value with
  | empty => rfl
  | u8 n => exact guess_eq_typed [n]
  | i8 n => exact guess_leBytes_one _
  | u16 n => simp [venc, regained, guess_leBytes_two]
  | i16 n => exact guess_leBytes_two _
  | u32 n => simp [venc, regained, guess_leBytes_four]
  | i32 n => exact guess_leBytes_four _
  | ascii s => exact guess_eq_typed s
  | other b => exact guess_eq_typed b

theorem exec_guess (v : List Byte) (s : State) :
    exec (.guess v) s = .next { s with result := .value (guess v) } := rfl

/-! ### The obligations -/

/-- Settles O48 by the number of bytes: `guess` is R151's table. -/
theorem guessTypesByWidth : Obligations.GuessTypesByWidth := by
  unfold Obligations.GuessTypesByWidth
  intro v s
  rw [exec_guess, guess_eq_typed]

/-- Settles O49: the bytes are `venc value`, and `guess` undoes `venc` up to the sign and the raw variants. -/
theorem guessAfterVenc : Obligations.GuessAfterVenc := by
  unfold Obligations.GuessAfterVenc
  intro value s t bs hexec hres
  obtain rfl : venc value = bs := by
    rw [exec_venc] at hexec
    cases hexec
    exact Result.bytes.inj hres
  rw [exec_guess, guess_venc]

end Sys2Proof.Machine
end

section
/-! SUPPORT. What `parse` and the response rows answer (45_response_parser.md R140 to R150): validity first, then the
payload's checks in their order. -/

open Sys2Proof Sys2Proof.Claims

namespace Sys2Proof.Machine

/-! ### The fields of a payload -/

theorem payloadCode_cons_cons (a b : Byte) (more : List Byte) : payloadCode (a :: b :: more) = codeOf a b := by
  simp [payloadCode, memRead, leNat, codeOf]

theorem flagsOfByte_eq_flagsIn (f : Byte) : flagsOfByte f = flagsIn f := by
  revert f; decide

/-- Both sides wrap at 8 bits, so high nibbles above 9 are no exception (R147). -/
theorem bcdMinor_eq_ofNat (a : Byte) : bcdMinor a = BitVec.ofNat 8 (a.toNat % 16 + 10 * (a.toNat / 16)) := by
  revert a; decide

theorem lowNibble_eq_ofNat (b : Byte) : lowNibble b = BitVec.ofNat 4 (b.toNat % 16) := by
  revert b; decide

theorem zextNibble_highNibble_eq_ofNat (b : Byte) : zextNibble (highNibble b) = BitVec.ofNat 8 (b.toNat / 16) := by
  revert b; decide

/-! ### Error (R146) -/

section
variable (cfg : Config)

theorem parseError_short {p : List Byte} (h : p.length < 2) : parseError cfg p = failed .sliceConversionFailed := by
  rw [parseError, if_pos h]

theorem parseError_unknown {a b : Byte} (more : List Byte) (h : codeOf a b ∉ cfg.errorIds) :
    parseError cfg (a :: b :: more) = failed .unknownErrorId := by
  simp [parseError, payloadCode_cons_cons, h]

theorem parseError_known {a b : Byte} (more : List Byte) (h : codeOf a b ∈ cfg.errorIds) :
    parseError cfg (a :: b :: more) = .ok (.error (codeOf a b)) := by
  simp [parseError, payloadCode_cons_cons, h]

end

/-! ### Ping (R147) -/

theorem parsePing_short {p : List Byte} (h : p.length < 2) : parsePing p = failed .sliceConversionFailed := by
  match p with
  | [] => rfl
  | [_] => rfl
  | _ :: _ :: more => simp at h

theorem parsePing_cons_cons (a b : Byte) (more : List Byte) :
    parsePing (a :: b :: more) = .ok (.ping (BitVec.ofNat 8 (b.toNat / 16)) (BitVec.ofNat 4 (b.toNat % 16))
      (BitVec.ofNat 8 (a.toNat % 16 + 10 * (a.toNat / 16)))) := by
  rw [parsePing, zextNibble_highNibble_eq_ofNat, lowNibble_eq_ofNat, bcdMinor_eq_ofNat]

/-! ### Get, Set and Async (R148 to R150), a lemma per check in their order -/

section
variable (cfg : Config) (origin : Origin)

theorem parseUpdate_short {p : List Byte} (h : p.length < 2) :
    parseUpdate cfg origin p = failed .sliceConversionFailed := by
  rw [parseUpdate, if_pos h]

theorem parseUpdate_unknownItem {a b : Byte} (more : List Byte) (h : codeOf a b ∉ cfg.itemIds) :
    parseUpdate cfg origin (a :: b :: more) = failed .unknownItemId := by
  simp [parseUpdate, payloadCode_cons_cons, h]

variable {cfg} {a b : Byte} (hitem : codeOf a b ∈ cfg.itemIds)
include hitem

theorem parseUpdate_noFlags : parseUpdate cfg origin [a, b] = failed .sliceConversionFailed := by
  simp [parseUpdate, payloadCode_cons_cons, hitem, readByte]

theorem parseUpdate_reserved {f : Byte} (v : List Byte) (hf : f &&& 0xF8 ≠ 0) :
    parseUpdate cfg origin (a :: b :: f :: v) = failed .invalidFlagsBits := by
  have hres : reservedFlagBits f = true := (reservedFlagBits_iff f).mpr hf
  simp [parseUpdate, payloadCode_cons_cons, hitem, readByte, hres]

theorem parseUpdate_ok {f : Byte} (v : List Byte) (hf : f &&& 0xF8 = 0) :
    parseUpdate cfg origin (a :: b :: f :: v) = .ok (.update origin (codeOf a b) (flagsIn f) (typed v)) := by
  have hres : ¬ reservedFlagBits f = true := fun h => (reservedFlagBits_iff f).mp h hf
  simp [parseUpdate, payloadCode_cons_cons, hitem, readByte, hres, flagsOfByte_eq_flagsIn, guess_eq_typed]

end

/-! ### The operations -/

theorem exec_parse (f : List Byte) (s : State) :
    exec (.parse f) s = .next { s with result := Result.ofExcept .response (parse s.cfg f) } := rfl

/-- A response row is `parse` of the frame with the row's code as byte 0 (log 11). -/
theorem exec_responseRow {i : Instr} {id : Byte} {rest : List Byte} (h : IsResponseRow i id rest) (s : State) :
    exec i s = exec (.parse (id :: rest)) s := by
  rcases h with hmem | ⟨rfl, -⟩
  · simp only [List.mem_cons, List.not_mem_nil, or_false, Prod.mk.injEq] at hmem
    rcases hmem with ⟨rfl, rfl⟩ | ⟨rfl, rfl⟩ | ⟨rfl, rfl⟩ | ⟨rfl, rfl⟩ | ⟨rfl, rfl⟩ | ⟨rfl, rfl⟩ | ⟨rfl, rfl⟩ <;> rfl
  · rfl

theorem exec_parse_invalid {f : List Byte} (h : ¬ Acceptable f) (s : State) :
    exec (.parse f) s = .next { s with result := plain .checksumInvalid } := by
  have hvalid : valid f = false := Bool.eq_false_iff.mpr (mt (valid_iff_acceptable f).mp h)
  rw [exec_parse, parse_invalid _ _ hvalid]
  rfl

/-- The payload of a valid frame is what stands between byte 0 and the checksum byte (R143). -/
theorem exec_parse_of_acceptable {id : Byte} {p : List Byte} {ck : Byte} (h : Acceptable (id :: p ++ [ck]))
    (s : State) :
    exec (.parse (id :: p ++ [ck])) s =
      .next { s with result := Result.ofExcept .response (parsePayload s.cfg id p) } := by
  have hvalid : valid (id :: (p ++ [ck])) = true := (valid_iff_acceptable _).mpr h
  rw [exec_parse, List.cons_append, parse_valid _ _ _ hvalid, List.dropLast_concat]

theorem isResponseRow_updateRow {rest : List Byte} {origin : Origin} {i : Instr} {id : Byte}
    (h : updateRow rest origin = (i, id)) : IsResponseRow i id rest := by
  left
  rw [← h]
  cases origin <;> simp [updateRow]

theorem parsePayload_updateRow {rest : List Byte} {origin : Origin} {i : Instr} {id : Byte}
    (h : updateRow rest origin = (i, id)) (cfg : Config) (p : List Byte) :
    parsePayload cfg id p = parseUpdate cfg origin p := by
  cases origin <;> cases h <;> rfl

theorem exec_updateRow {origin : Origin} {p : List Byte} {ck : Byte} {i : Instr} {id : Byte}
    (hrow : updateRow (p ++ [ck]) origin = (i, id)) (hacc : Acceptable (id :: p ++ [ck])) (s : State) :
    exec i s = .next { s with result := Result.ofExcept .response (parseUpdate s.cfg origin p) } := by
  rw [exec_responseRow (isResponseRow_updateRow hrow), ← List.cons_append, exec_parse_of_acceptable hacc,
    parsePayload_updateRow hrow]

/-! ### The obligations -/

/-- Settles O51: `parse` looks at validity first, and every response row is `parse` of its frame. -/
theorem parseRejectsInvalidFirst : Obligations.ParseRejectsInvalidFirst := by
  unfold Obligations.ParseRejectsInvalidFirst
  refine ⟨fun f s h => exec_parse_invalid h s, fun i id rest s hrow h => ?_⟩
  rw [exec_responseRow hrow, exec_parse_invalid h]

/-- Settles O53: the payload is typed by `guess`, which is R151's table. -/
theorem doneAndUnknownWrapThePayload : Obligations.DoneAndUnknownWrapThePayload := by
  unfold Obligations.DoneAndUnknownWrapThePayload
  intro p ck s
  rw [← guess_eq_typed]
  exact ⟨fun h => ⟨exec_parse_of_acceptable h s, exec_parse_of_acceptable h s⟩,
    fun h => ⟨exec_parse_of_acceptable h s, exec_parse_of_acceptable h s⟩⟩

/-- Settles O54: the row is `parseError` of the payload; its outcomes are those of `parseError`. -/
theorem errorResponseNamesItsCode : Obligations.ErrorResponseNamesItsCode := by
  unfold Obligations.ErrorResponseNamesItsCode
  intro p ck s hacc
  have hexec : exec (.rspError (p ++ [ck])) s
      = .next { s with result := Result.ofExcept .response (parseError s.cfg p) } :=
    exec_parse_of_acceptable hacc s
  rw [hexec]
  refine ⟨fun hshort => ?_, ?_, ?_⟩
  · rw [parseError_short _ hshort]; rfl
  · rintro a b more rfl hcode
    rw [parseError_unknown _ _ hcode]; rfl
  · rintro a b more rfl hcode
    rw [parseError_known _ _ hcode]; rfl

/-- Settles O55: the row is `parsePing` of the payload, whose nibbles are the quotient and the remainder by 16. -/
theorem pingResponseReadsBcd : Obligations.PingResponseReadsBcd := by
  unfold Obligations.PingResponseReadsBcd
  intro p ck s hacc
  have hexec : exec (.rspPing (p ++ [ck])) s
      = .next { s with result := Result.ofExcept .response (parsePing p) } :=
    exec_parse_of_acceptable hacc s
  rw [hexec]
  refine ⟨fun hshort => ?_, ?_⟩
  · rw [parsePing_short hshort]; rfl
  · rintro a b more rfl
    rw [parsePing_cons_cons]; rfl

/-- Settles O56: each of the three rows is `parseUpdate` of the payload, and each check has its lemma. -/
theorem updateResponsesCheckInOrder : Obligations.UpdateResponsesCheckInOrder := by
  unfold Obligations.UpdateResponsesCheckInOrder
  intro origin p ck s i id hrow hacc
  rw [exec_updateRow hrow hacc]
  refine ⟨fun hshort => ?_, ?_, ?_, ?_, ?_⟩
  · rw [parseUpdate_short _ _ hshort]; rfl
  · rintro a b more rfl hitem
    rw [parseUpdate_unknownItem _ _ _ hitem]; rfl
  · rintro a b rfl hitem
    rw [parseUpdate_noFlags _ hitem]; rfl
  · rintro a b f v rfl hitem hf
    rw [parseUpdate_reserved _ hitem _ hf]; rfl
  · rintro a b f v rfl hitem hf
    rw [parseUpdate_ok _ hitem _ hf]; rfl

end Sys2Proof.Machine
end

section
/-! SUPPORT. Fault entry and return (60_exceptions.md): a faulted decoder is moved by CLEAR and RESET alone (R166), and
the operations that raise nothing (R161). -/

open Sys2Proof Sys2Proof.Claims

namespace Sys2Proof.Machine

/-- An operation answers at most one next state. -/
theorem eq_of_exec_eq_next {i : Instr} {s t u : State} (ht : exec i s = .next t) (hu : exec i s = .next u) : t = u :=
  Host.Outcome.next.inj (ht.symm.trans hu)

/-! ### A faulted decoder -/

theorem Decoder.Inv.done_eq_false_of_faulted {cfg : Config} {d : Decoder} (h : d.Inv cfg) (hf : d.ferr ≠ .none) :
    d.done = false :=
  eq_false_of_ne_true fun hd => h.not_done_and_fault ⟨hd, Decoder.fault_iff.mpr hf⟩

/-- `push_slice` on a faulted decoder that is not done drops every byte (log 19). -/
theorem Decoder.pushSlice_faulted (cfg : Config) (bs : List Byte) (d : Decoder) (hf : d.ferr ≠ .none)
    (hd : d.done = false) : Decoder.pushSlice cfg bs d = (d, bs.length, none) := by
  induction bs with
  | nil => rfl
  | cons c cs ih =>
    have hp := d.push_faulted cfg c hf
    rw [Decoder.pushSlice_cons_go cfg c cs d (by rw [hp]) (by rw [hp]; exact hd), hp, ih, List.length_cons]

/-- R166, for the decoder alone. -/
theorem exec_dec_eq_of_faulted {i : Instr} {s t : State} (hf : s.dec.ferr ≠ .none) (hd : s.dec.done = false)
    (ht : exec i s = .next t) (hclear : i ≠ .clear) (hreset : i ≠ .reset) (hdecode : ∀ w, i ≠ .decode w) :
    t.dec = s.dec := by
  rcases exec_cases i s with ⟨_, hu⟩ | ⟨c, hu⟩ | ⟨_, hi⟩ | ⟨_, hi⟩ | ⟨_, hu⟩ | ⟨_, _, _, _, hu⟩ | ⟨_, _, _, hfault⟩ |
    ⟨bs, hu, _⟩ | ⟨w, _, hi⟩
  · rw [eq_of_exec_eq_next ht hu, State.setResult_dec]
  · rw [eq_of_exec_eq_next ht hu, State.push_dec, s.dec.push_faulted s.cfg c hf]
  · exact absurd hi hreset
  · exact absurd hi hclear
  · rw [eq_of_exec_eq_next ht hu, State.encLoad_dec]
  · rw [eq_of_exec_eq_next ht hu, State.setResult_dec, State.emit_dec, State.setEnc_dec]
  · cases ht.symm.trans hfault
  · rw [eq_of_exec_eq_next ht hu, State.pushSlice_dec, s.dec.pushSlice_faulted s.cfg bs hf hd]
  · exact absurd hi (hdecode w)

/-! ### The operations that raise nothing -/

theorem ne_err_of_exec_eq_next {i : Instr} {s t u : State} {e : Err} (ht : exec i s = .next t)
    (hu : exec i s = .next u) (h : u.result ≠ .err e) : t.result ≠ .err e :=
  eq_of_exec_eq_next ht hu ▸ h

/-- PUSH in Start opens a frame, drops the byte, or is refused (R91 to R93, R99): it raises nothing. -/
theorem Decoder.push_start_snd (cfg : Config) (c : Byte) (d : Decoder) (hs : d.state = .start) :
    (d.push cfg c).2 = none := by
  by_cases hf : d.ferr = .none
  · by_cases hc : c = 0x3A
    · rw [hc, d.push_start_colon cfg hs hf]
    · cases ht : cfg.textEn with
      | true => rw [Decoder.push_start_text hf hs hc ht]
      | false => rw [Decoder.push_start_drop hf hs hc ht]
  · rw [d.push_faulted cfg c hf]

/-- Log 20: without a digit for the next place ENC_NEXT stops the machine. -/
theorem exec_encNext_no_digit (s : State) (h : s.enc.tact = true) (hb : s.enc.nextByte = none) :
    exec .encNext s = .fault .encoderInvariant := by
  simp [exec, execEncNext, h, hb]

/-- R112: ENC_NEXT returns `none` or a byte. -/
theorem exec_encNext_ne_err {s t : State} (ht : exec .encNext s = .next t) (e : Err) : t.result ≠ .err e := by
  cases ha : s.enc.tact with
  | false => exact ne_err_of_exec_eq_next ht (exec_encNext_idle s ha) nofun
  | true =>
    cases hb : s.enc.nextByte with
    | some b => exact ne_err_of_exec_eq_next ht (exec_encNext_live s b ha hb) nofun
    | none => cases ht.symm.trans (exec_encNext_no_digit s ha hb)

/-! ### The obligations -/

/-- Settles O21: by what an operation can do, only PUSH and `push_slice` reach the decoder without CLEAR or RESET, and
they drop their bytes; the invariant keeps a faulted decoder out of Start. -/
theorem decoderFaultIsSticky : Obligations.DecoderFaultIsSticky := by
  unfold Obligations.DecoderFaultIsSticky
  intro i s t hinv hf ht hclear hreset hdecode
  have hd := hinv.dec.done_eq_false_of_faulted hf
  have hdec := exec_dec_eq_of_faulted hf hd ht hclear hreset hdecode
  exact ⟨hdec, hdec ▸ hd⟩

/-- Settles O57: the result of each of the operations is written in its equation, and none is an error. -/
theorem someOperationsNeverRaise : Obligations.SomeOperationsNeverRaise := by
  unfold Obligations.SomeOperationsNeverRaise
  intro i s t e ht hi
  rcases hi with rfl | rfl | rfl | ⟨bs, rfl⟩ | ⟨bs, rfl⟩ | ⟨bs, rfl⟩ | ⟨cmd, rfl⟩ | ⟨v, rfl⟩ | ⟨bs, rfl⟩ |
    ⟨⟨c, hpush⟩, hs⟩
  · exact ne_err_of_exec_eq_next ht (exec_reset s) nofun
  · exact ne_err_of_exec_eq_next ht (exec_clear s) nofun
  · exact exec_encNext_ne_err ht e
  · exact ne_err_of_exec_eq_next ht (exec_csum bs s) nofun
  · exact ne_err_of_exec_eq_next ht (exec_valid bs s) nofun
  · exact ne_err_of_exec_eq_next ht (exec_mkcsum bs s) nofun
  · exact ne_err_of_exec_eq_next ht (exec_build cmd s) nofun
  · exact ne_err_of_exec_eq_next ht (exec_venc v s) nofun
  · exact ne_err_of_exec_eq_next ht (exec_guess bs s) nofun
  · have hquiet : s.dec.push s.cfg c = (_, none) := Prod.ext rfl (s.dec.push_start_snd s.cfg c hs)
    exact ne_err_of_exec_eq_next ht (exec_of_isPush hpush hquiet) nofun

end Sys2Proof.Machine
end

section
/-! SUPPORT. One request of the host's queue: what its bytes run, and the only two refusals (logs 1, 2, 12). -/

open Sys2Proof Sys2Proof.Claims

namespace Sys2Proof.Machine

theorem execOp_of_error {bytes : List Byte} {e : DecodeError} (hd : decode bytes = .error e) (s : State) :
    execOp bytes s = .refused (.undecodable e) := by
  simp [execOp, fetchInstr, hd]

theorem execOp_of_illFormed {bytes : List Byte} {i : Instr} {s : State} (hd : decode bytes = .ok i)
    (hw : i.wellFormed s.cfg = false) : execOp bytes s = .refused (.illFormed i) := by
  simp [execOp, fetchInstr, hd, hw]

/-- What becomes of an operation asked for by its bytes. -/
theorem execOp_cases (bytes : List Byte) (s : State) :
    (∃ e, decode bytes = .error e ∧ execOp bytes s = .refused (.undecodable e)) ∨
    (∃ i, decode bytes = .ok i ∧ i.wellFormed s.cfg = false ∧ execOp bytes s = .refused (.illFormed i)) ∨
    (∃ i, decode bytes = .ok i ∧ i.wellFormed s.cfg = true ∧ execOp bytes s = exec i s) := by
  cases hd : decode bytes with
  | error e => exact .inl ⟨e, rfl, execOp_of_error hd s⟩
  | ok i =>
    cases hw : i.wellFormed s.cfg with
    | false => exact .inr (.inl ⟨i, rfl, hw, execOp_of_illFormed hd hw⟩)
    | true => exact .inr (.inr ⟨i, rfl, hw, execOp_of_decode bytes i s hd hw⟩)

/-- Settles O1: a well-formed operation is what its bytes run. -/
theorem stepRunsDecodedOperation : Obligations.StepRunsDecodedOperation := by
  unfold Obligations.StepRunsDecodedOperation
  intro s bytes rest i hp hd hw
  rw [step_request s _ rest hp]
  exact execOp_of_decode bytes i (s.fetch rest) hd hw

/-- Settles O2: of what can become of bytes, two are refusals; a clock edge is never refused. -/
theorem stepIdlesAndRefusesByName : Obligations.StepIdlesAndRefusesByName := by
  unfold Obligations.StepIdlesAndRefusesByName
  refine ⟨step_idle, fun s bytes rest e hp hd => ?_, fun s bytes rest i hp hd hw => ?_, fun s r hr => ?_⟩
  · exact (step_request s _ rest hp).trans (execOp_of_error hd _)
  · exact (step_request s _ rest hp).trans (execOp_of_illFormed hd hw)
  · cases hp : s.pending with
    | nil => cases hr.symm.trans (step_idle s hp)
    | cons q rest =>
      rw [step_request s q rest hp] at hr
      cases q with
      | edge p => exact absurd hr (execEdge_ne_refused p _ r)
      | op bytes =>
        refine ⟨bytes, rest, rfl, ?_⟩
        rcases execOp_cases bytes (s.fetch rest) with ⟨e, hd, ho⟩ | ⟨i, hd, hw, ho⟩ | ⟨i, -, -, ho⟩
        · exact .inl ⟨e, hd, Host.Outcome.refused.inj (hr.symm.trans ho)⟩
        · exact .inr ⟨i, hd, hw, Host.Outcome.refused.inj (hr.symm.trans ho)⟩
        · exact absurd (ho.symm.trans hr) (exec_ne_refused i _ r)

end Sys2Proof.Machine
end

section
/-! SUPPORT. The invariant (10_state.md R13, R14): each transition of the two agents keeps it, so each operation, each
clock edge and each step does; and in a good state nothing stops (70_reset_and_hazards.md R206). -/

open Sys2Proof Sys2Proof.Claims

namespace Sys2Proof.Machine

/-! ### The decoder's transitions -/

/-- R5: BUF_CAP is at least 11. -/
theorem Config.le_of_bufCap {cfg : Config} (h : cfg.wf = true) {cap : Nat} (hcap : cfg.bufCap = some cap) :
    11 ≤ cap := by
  simp only [Config.wf, hcap, Bool.and_eq_true, decide_eq_true_eq] at h
  exact h.1.1

theorem zextNibble_or_zextNibble_le (v w : Nibble) : zextNibble v ||| zextNibble w ≤ 0x0F := by
  revert v w; decide

/-- ORing a nibble into the last byte keeps the id byte a single digit (R13 item 4). -/
theorem le_of_readByte_orLast {buf : List Byte} {v : Nibble} {b : Byte}
    (h : ∀ x, readByte buf 0 = some x → x ≤ 0x0F) (hb : readByte (orLast buf v) 0 = some b) : b ≤ 0x0F := by
  by_cases hone : 0 + 1 = buf.length
  · obtain ⟨x, rfl⟩ := List.length_eq_one_iff.mp hone.symm
    have hlast : orLast [x] v = [x ||| zextNibble v] := orLast_append [] x v
    obtain rfl : x ||| zextNibble v = b := by simpa [readByte, hlast] using hb
    rw [← zextNibble_lowNibble x (h x rfl)]
    exact zextNibble_or_zextNibble_le _ _
  · exact h b (readByte_orLast_of_ne buf v 0 hone ▸ hb)

section
variable {cfg : Config} {d : Decoder}

/-- A buffer that is not full has room for one byte more (log 22). -/
theorem Decoder.Inv.room (h : d.Inv cfg) (hroom : d.full cfg = false) (v : Byte) (cap : Nat)
    (hcap : cfg.bufCap = some cap) : (appendByte d.rbuf v).length ≤ cap := by
  have hle : d.rbuf.length ≤ cap := h.fits cap hcap
  have hne : cap ≠ d.rbuf.length := fun he => (d.full_eq_false_iff cfg).mp hroom (hcap.trans (congrArg some he))
  rw [appendByte_length]
  omega

/-- Any decoder in Start without a fault whose buffer is within the bounds is good. -/
theorem Decoder.Inv.of_start (hs : d.state = .start)
    (hid : d.fmt = .hex → ∀ b, readByte d.rbuf 0 = some b → b ≤ 0x0F)
    (hfits : ∀ cap, cfg.bufCap = some cap → d.rlen ≤ cap) (hf : d.ferr = .none) (he : d.ebyte = 0x00) :
    d.Inv cfg where
  low := by simp [hs]
  high := by simp [hs]
  text := by simp [hs]
  hexId := hid
  faulted := fun h => absurd hf h
  fits := hfits
  kinds := .inl hf
  noByte := fun _ => he

theorem Decoder.inv_clear : d.clear.Inv cfg :=
  .of_start rfl (fun _ _ h => nomatch h) (fun _ _ => Nat.zero_le _) rfl rfl

theorem Decoder.inv_reset : d.reset.Inv cfg :=
  .of_start rfl (fun _ _ h => nomatch h) (fun _ _ => Nat.zero_le _) rfl rfl

/-- Fault entry (60_exceptions.md R165). -/
theorem Decoder.Inv.raise (h : d.Inv cfg) {k : ErrKind} (hk : k = .invalidHexDigit ∨ k = .lengthMismatch)
    (hs : d.state ≠ .start) (c : Byte) : (d.raise k c).1.Inv cfg where
  low := h.low
  high := h.high
  text := h.text
  hexId := h.hexId
  faulted := fun _ => hs
  fits := h.fits
  kinds := .inr hk
  noByte := fun hnone => by rcases hk with rfl | rfl <;> cases hnone

/-- R91. -/
theorem Decoder.Inv.openHex (h : d.Inv cfg) (hwf : cfg.wf = true) (hf : d.ferr = .none) : d.openHex.Inv cfg where
  low := fun _ => ⟨rfl, 0x00, rfl, by decide⟩
  high := nofun
  text := nofun
  hexId := fun _ b hb => by cases hb; decide
  faulted := fun hne => absurd hf hne
  fits := fun cap hcap => le_trans (by decide : 1 ≤ 11) (Config.le_of_bufCap hwf hcap)
  kinds := h.kinds
  noByte := h.noByte

/-- R92. -/
theorem Decoder.Inv.openText (h : d.Inv cfg) (hwf : cfg.wf = true) (hf : d.ferr = .none) (ht : cfg.textEn = true)
    {c : Byte} (hc : c ≠ 0x3A) : (d.openText c).Inv cfg where
  low := nofun
  high := nofun
  text := fun _ => ⟨rfl, ht, c, rfl, hc⟩
  hexId := nofun
  faulted := fun hne => absurd hf hne
  fits := fun cap hcap => le_trans (by decide : 1 ≤ 11) (Config.le_of_bufCap hwf hcap)
  kinds := h.kinds
  noByte := h.noByte

/-- R93. -/
theorem Decoder.Inv.dropByte (h : d.Inv cfg) (hf : d.ferr = .none) : d.dropByte.Inv cfg :=
  .of_start rfl (fun _ _ hb => nomatch hb) (fun _ _ => Nat.zero_le _) hf (h.noByte hf)

/-- R94. -/
theorem Decoder.Inv.completeByte (h : d.Inv cfg) (hf : d.ferr = .none) (hs : d.state = .lowNibble) (v : Nibble) :
    (d.completeByte v).Inv cfg := by
  obtain ⟨hfmt, last, hlast, -⟩ := h.low hs
  have hpos : 1 ≤ d.rbuf.length := List.length_pos_of_mem (List.mem_of_getLast? hlast)
  exact {
    low := nofun
    high := fun _ => ⟨hfmt, by simpa [Decoder.rlen, Decoder.completeByte] using hpos⟩
    text := nofun
    hexId := fun _ b hb => le_of_readByte_orLast (h.hexId hfmt) hb
    faulted := fun hne => absurd hf hne
    fits := fun cap hcap => by simpa [Decoder.rlen, Decoder.completeByte] using h.fits cap hcap
    kinds := h.kinds
    noByte := h.noByte }

/-- R96. -/
theorem Decoder.Inv.finish (h : d.Inv cfg) (hf : d.ferr = .none) : d.finish.Inv cfg :=
  .of_start rfl h.hexId h.fits hf (h.noByte hf)

/-- R97. -/
theorem Decoder.Inv.startByte (h : d.Inv cfg) (hf : d.ferr = .none) (hs : d.state = .highNibble)
    (hroom : d.full cfg = false) (v : Nibble) : (d.startByte v).Inv cfg := by
  obtain ⟨hfmt, hpos⟩ := h.high hs
  exact {
    low := fun _ => ⟨hfmt, shiftedNibble v, by simp [Decoder.startByte, appendByte], by simp⟩
    high := nofun
    text := nofun
    hexId := fun _ b hb => h.hexId hfmt b (readByte_appendByte_of_lt d.rbuf _ 0 hpos ▸ hb)
    faulted := fun hne => absurd hf hne
    fits := h.room hroom _
    kinds := h.kinds
    noByte := h.noByte }

/-- R98. -/
theorem Decoder.Inv.storeText (h : d.Inv cfg) (hf : d.ferr = .none) (hs : d.state = .text)
    (hroom : d.full cfg = false) (c : Byte) : (d.storeText c).Inv cfg := by
  obtain ⟨hfmt, ht, b0, hb0, hne0⟩ := h.text hs
  have hpos : 0 < d.rbuf.length := (List.getElem?_eq_some_iff.mp hb0).1
  by_cases hm : EndsWithMarker d.rbuf
  · rw [Decoder.storeText_of_marker hm]
    exact .of_start rfl (fun hhex => absurd (hfmt.symm.trans hhex) (by decide)) (h.room hroom c) hf (h.noByte hf)
  · rw [Decoder.storeText_of_no_marker hm]
    exact {
      low := nofun
      high := nofun
      text := fun _ => ⟨hfmt, ht, b0, (readByte_appendByte_of_lt d.rbuf c 0 hpos).trans hb0, hne0⟩
      hexId := fun hhex => absurd (hfmt.symm.trans hhex) (by decide)
      faulted := fun hne => absurd hf hne
      fits := h.room hroom c
      kinds := h.kinds
      noByte := h.noByte }

/-- Every line of R109's table keeps R13. -/
theorem Decoder.Inv.push (h : d.Inv cfg) (hwf : cfg.wf = true) (c : Byte) : (d.push cfg c).1.Inv cfg := by
  rcases d.push_cases cfg c with ⟨-, hp⟩ | ⟨hf, -, -, hp⟩ | ⟨hf, -, hc, ht, hp⟩ | ⟨hf, -, -, -, hp⟩ |
    ⟨v, hf, hs, -, hp⟩ | ⟨-, hs, -, hp⟩ | ⟨hf, -, -, hp⟩ | ⟨v, hf, hs, -, hroom, hp⟩ | ⟨hf, hs, hroom, hp⟩ |
    ⟨-, hs, -, hp⟩ <;> rw [hp]
  · exact h
  · exact h.openHex hwf hf
  · exact h.openText hwf hf ht hc
  · exact h.dropByte hf
  · exact h.completeByte hf hs v
  · refine h.raise (.inl rfl) ?_ c
    rcases hs with hs | ⟨hs, -⟩ <;> simp [hs]
  · exact h.finish hf
  · exact h.startByte hf hs hroom v
  · exact h.storeText hf hs hroom c
  · refine h.raise (.inr rfl) ?_ c
    rcases hs with ⟨hs, -⟩ | hs <;> simp [hs]

theorem Decoder.Inv.pushSlice (h : d.Inv cfg) (hwf : cfg.wf = true) (bs : List Byte) :
    (Decoder.pushSlice cfg bs d).1.Inv cfg := by
  induction bs generalizing d with
  | nil => exact h
  | cons c cs ih =>
    rw [Decoder.pushSlice]
    split
    · exact h.push hwf c
    · exact ih (h.push hwf c)

end

/-! ### The encoder's transitions -/

theorem overCapacity_eq_false_iff (cfg : Config) (n : Nat) :
    overCapacity cfg n = false ↔ ∀ cap, cfg.bufCap = some cap → n ≤ cap := by
  cases hc : cfg.bufCap <;> simp [overCapacity, hc]

section
variable {cfg : Config} {e : Encoder}

theorem Encoder.inv_afterReset : Encoder.afterReset.Inv cfg where
  place := Nat.zero_le _
  live := nofun
  fits := fun _ _ => Nat.zero_le _
  faulted := fun h => absurd rfl h
  kinds := .inl rfl

/-- R111, and fault entry (60_exceptions.md R168). -/
theorem Encoder.Inv.load (h : e.Inv cfg) (f : List Byte) : (e.load cfg f).1.Inv cfg := by
  rcases e.load_cases cfg f with ⟨hnone, hl⟩ | ⟨err, -, hkind, hl⟩ <;> rw [hl]
  · obtain ⟨id, rest, rfl, hroom, hid⟩ := (loadError_none_iff cfg f).mp hnone
    exact {
      place := Nat.zero_le _
      live := fun _ => ⟨Nat.zero_le _, id, rfl, hid⟩
      fits := (overCapacity_eq_false_iff cfg _).mp hroom
      faulted := fun hne => absurd rfl hne
      kinds := .inl rfl }
  · exact {
      place := h.place
      live := nofun
      fits := h.fits
      faulted := fun _ => rfl
      kinds := .inr hkind }

/-- R112. -/
theorem Encoder.Inv.advance (h : e.Inv cfg) (ha : e.tact = true) : e.advance.Inv cfg := by
  obtain ⟨hle, hid⟩ := h.live ha
  have hquiet : e.tferr = .none := Decidable.not_not.mp fun hne => by simp [h.faulted hne] at ha
  rw [Encoder.advance_of_tact ha]
  exact {
    place := Nat.succ_le_succ hle
    live := fun hlive => ⟨Nat.lt_of_le_of_ne hle (of_decide_eq_true hlive), hid⟩
    fits := h.fits
    faulted := fun hne => absurd hquiet hne
    kinds := h.kinds }

end

/-! ### The machine -/

/-- The invariant speaks of the parameters and the two agents only. -/
theorem State.Inv.of_agents {s t : State} (h : s.Inv) (hcfg : t.cfg = s.cfg) (hd : t.dec.Inv s.cfg)
    (he : t.enc.Inv s.cfg) : t.Inv :=
  ⟨hcfg ▸ h.cfg, hcfg ▸ hd, hcfg ▸ he⟩

/-- What the next state of an operation can be. -/
theorem exec_next_cases {i : Instr} {s t : State} (ht : exec i s = .next t) :
    (∃ r, t = s.setResult r) ∨ (∃ c, t = s.push c) ∨ t = s.resetBoth.setResult .none ∨
    t = (s.setDec s.dec.clear).setResult .none ∨ (∃ f, t = s.encLoad f) ∨
    (s.enc.tact = true ∧ ∃ b, t = ((s.setEnc s.enc.advance).emit b).setResult (.byte b)) ∨
    (∃ bs, t = s.pushSlice bs) ∨ ∃ w, t = s.decodeWire w := by
  rcases exec_cases i s with ⟨r, hu⟩ | ⟨c, hu⟩ | ⟨hu, -⟩ | ⟨hu, -⟩ | ⟨f, hu⟩ | ⟨-, ha, b, -, hu⟩ |
    ⟨-, -, -, hfault⟩ | ⟨bs, hu, -⟩ | ⟨w, hu, -⟩
  · exact .inl ⟨r, eq_of_exec_eq_next ht hu⟩
  · exact .inr (.inl ⟨c, eq_of_exec_eq_next ht hu⟩)
  · exact .inr (.inr (.inl (eq_of_exec_eq_next ht hu)))
  · exact .inr (.inr (.inr (.inl (eq_of_exec_eq_next ht hu))))
  · exact .inr (.inr (.inr (.inr (.inl ⟨f, eq_of_exec_eq_next ht hu⟩))))
  · exact .inr (.inr (.inr (.inr (.inr (.inl ⟨ha, b, eq_of_exec_eq_next ht hu⟩)))))
  · cases ht.symm.trans hfault
  · exact .inr (.inr (.inr (.inr (.inr (.inr (.inl ⟨bs, eq_of_exec_eq_next ht hu⟩))))))
  · exact .inr (.inr (.inr (.inr (.inr (.inr (.inr ⟨w, eq_of_exec_eq_next ht hu⟩))))))

theorem exec_keeps_inv {i : Instr} {s t : State} (h : s.Inv) (ht : exec i s = .next t) : t.Inv := by
  rcases exec_next_cases ht with ⟨r, rfl⟩ | ⟨c, rfl⟩ | rfl | rfl | ⟨f, rfl⟩ | ⟨ha, b, rfl⟩ | ⟨bs, rfl⟩ | ⟨w, rfl⟩
  · exact h.of_agents rfl h.dec h.enc
  · exact h.of_agents rfl (h.dec.push h.cfg c) h.enc
  · exact h.of_agents rfl Decoder.inv_reset Encoder.inv_afterReset
  · exact h.of_agents rfl Decoder.inv_clear h.enc
  · exact h.of_agents rfl h.dec (h.enc.load f)
  · exact h.of_agents rfl h.dec (h.enc.advance ha)
  · exact h.of_agents rfl (h.dec.pushSlice h.cfg bs) h.enc
  · exact h.of_agents rfl (Decoder.inv_reset.pushSlice h.cfg w) Encoder.inv_afterReset

/-- An edge with an event of each agent is one operation after the other (log 14). -/
theorem execBoth_keeps_inv {i j : Instr} {s t : State} (h : s.Inv) (ht : execBoth i j s = .next t) : t.Inv := by
  unfold execBoth at ht
  cases hi : exec i s with
  | fault f => simp [hi] at ht
  | refused r => simp [hi] at ht
  | next s1 =>
    cases hj : exec j s1 with
    | fault f => simp [hi, hj] at ht
    | refused r => simp [hi, hj] at ht
    | next s2 =>
      have hinv : s2.Inv := exec_keeps_inv (exec_keeps_inv h hi) hj
      obtain rfl : s2.setResult (.both s1.result s2.result) = t := by simpa [hi, hj] using ht
      exact hinv.of_agents rfl hinv.dec hinv.enc

theorem execEdge_keeps_inv {p : PortIn} {s t : State} (h : s.Inv) (ht : execEdge p s = .next t) : t.Inv := by
  unfold execEdge at ht
  split at ht
  · exact execBoth_keeps_inv h ht
  · exact exec_keeps_inv h ht
  · exact exec_keeps_inv h ht
  · exact Host.Outcome.next.inj ht ▸ h.of_agents rfl h.dec h.enc

theorem execOp_keeps_inv {bytes : List Byte} {s t : State} (h : s.Inv) (ht : execOp bytes s = .next t) : t.Inv := by
  rcases execOp_cases bytes s with ⟨e, -, hr⟩ | ⟨i, -, -, hr⟩ | ⟨i, -, -, hr⟩
  · cases ht.symm.trans hr
  · cases ht.symm.trans hr
  · exact exec_keeps_inv h (hr.symm.trans ht)

/-- Taking a request from the queue touches neither agent (log 1). -/
theorem State.Inv.fetch {s : State} (h : s.Inv) (rest : List Request) : (s.fetch rest).Inv :=
  h.of_agents rfl h.dec h.enc

/-- Settles O8: every line of the two agents' transition tables keeps the invariant, so every operation does, and a
request is operations one after the other. -/
theorem stepKeepsInvariant : Obligations.StepKeepsInvariant := by
  unfold Obligations.StepKeepsInvariant
  intro s t hinv ht
  cases hp : s.pending with
  | nil => exact Host.Outcome.next.inj ((step_idle s hp).symm.trans ht) ▸ hinv
  | cons r rest =>
    rw [step_request s r rest hp] at ht
    cases r with
    | op bytes => exact execOp_keeps_inv (hinv.fetch rest) ht
    | edge p => exact execEdge_keeps_inv (hinv.fetch rest) ht

/-- Settles O9: both agents of `State.reset` are those that RESET leaves. -/
theorem resetHasInvariant : Obligations.ResetHasInvariant := by
  unfold Obligations.ResetHasInvariant
  exact ⟨by decide, Decoder.inv_reset (d := .afterReset), Encoder.inv_afterReset⟩

/-- Settles O4: RESET is an equation, and what the ports show of it is computed from the listed values. -/
theorem resetLeavesListedValues : Obligations.ResetLeavesListedValues := by
  unfold Obligations.ResetLeavesListedValues
  intro s
  exact ⟨_, exec_reset s, rfl, rfl, rfl, rfl, rfl, rfl, rfl, rfl, rfl, rfl, rfl, rfl, rfl, rfl, rfl, rfl, rfl, rfl⟩

/-! ### Nothing stops in a good state -/

/-- The invariant leaves out the one stop of an operation (log 20). -/
theorem exec_completes {s : State} (h : s.Inv) (i : Instr) : ∃ t, exec i s = .next t := by
  rcases exec_cases i s with ⟨_, hu⟩ | ⟨_, hu⟩ | ⟨hu, -⟩ | ⟨hu, -⟩ | ⟨_, hu⟩ | ⟨-, -, _, -, hu⟩ | ⟨-, ha, hno, -⟩ |
    ⟨_, hu, -⟩ | ⟨_, hu, -⟩
  · exact ⟨_, hu⟩
  · exact ⟨_, hu⟩
  · exact ⟨_, hu⟩
  · exact ⟨_, hu⟩
  · exact ⟨_, hu⟩
  · exact ⟨_, hu⟩
  · obtain ⟨b, hb⟩ := h.enc.exists_nextByte ha
    cases hno.symm.trans hb
  · exact ⟨_, hu⟩
  · exact ⟨_, hu⟩

theorem execEdge_completes {s : State} (h : s.Inv) (p : PortIn) : ∃ t, execEdge p s = .next t := by
  cases hr : p.rst with
  | true => exact ⟨_, execEdge_reset p s hr⟩
  | false =>
    obtain ⟨d, hd⟩ := decoderTakes_decoderEvent p s hr
    obtain ⟨e, ys, he⟩ := encoderTakes_encoderEvent p s h.enc hr
    obtain ⟨r, hedge⟩ := execEdge_eq_of_takes p s d e ys hd he
    exact ⟨_, hedge⟩

theorem step_ne_fault {s : State} (h : s.Inv) (f : Fault) : step s ≠ .fault f := by
  intro hf
  cases hp : s.pending with
  | nil => cases hf.symm.trans (step_idle s hp)
  | cons r rest =>
    rw [step_request s r rest hp] at hf
    cases r with
    | edge p =>
      obtain ⟨t, ht⟩ := execEdge_completes (h.fetch rest) p
      cases hf.symm.trans ht
    | op bytes =>
      rcases execOp_cases bytes (s.fetch rest) with ⟨e, -, ho⟩ | ⟨i, -, -, ho⟩ | ⟨i, -, -, ho⟩
      · cases hf.symm.trans ho
      · cases hf.symm.trans ho
      · obtain ⟨t, ht⟩ := exec_completes (h.fetch rest) i
        cases hf.symm.trans (ho.trans ht)

/-- Settles O7: ENC_NEXT is the only operation with a stop, and a live sequence of a good encoder has its byte. -/
theorem everyOperationCompletes : Obligations.EveryOperationCompletes := by
  unfold Obligations.EveryOperationCompletes
  exact fun s hinv => ⟨exec_completes hinv, step_ne_fault hinv⟩

end Sys2Proof.Machine
end

section
/-! SUPPORT. The encoding of operations (30_encoding.md R54, R75, R76; layout: log 2): decoding undoes encoding, and
the rows that a byte of the formats RXBYTE and RSP stands for. -/

open Sys2Proof Sys2Proof.Claims

namespace Sys2Proof.Machine

/-! ### Rows by their byte -/

/-- "the first whose `(byte & mask) = match` holds wins" (R75): a row with the byte, or the catch-all. -/
theorem lookupRow_cases (rows : List (Byte × Instr)) (catchAll : Instr) (b : Byte) :
    (b, lookupRow rows catchAll b) ∈ rows ∨ (lookupRow rows catchAll b = catchAll ∧ b ∉ rows.map Prod.fst) := by
  have hmask : b &&& 0xFF = b := BitVec.and_allOnes
  rw [lookupRow, hmask]
  cases hfind : rows.find? (fun r => b == r.1) with
  | some r =>
    obtain rfl : b = r.1 := by simpa using List.find?_some hfind
    exact .inl (List.mem_of_find?_eq_some hfind)
  | none =>
    refine .inr ⟨rfl, fun hmem => ?_⟩
    obtain ⟨r, hr, rfl⟩ := List.mem_map.mp hmem
    exact List.find?_eq_none.mp hfind r hr (beq_self_eq_true _)

theorem decode_rx (c : Byte) : decode [c, 0x01] = .ok (rxInstr c) := rfl

theorem decode_rsp (id : Byte) (rest : List Byte) : decode (id :: 0x03 :: rest) = .ok (rspInstr id rest) := rfl

/-- The class rows, by byte instead of by row. -/
theorem mem_classRows_of_mem_rxRows {i : Instr} {c : Byte} (h : (c, i) ∈ rxRows) : (i, c) ∈ classRows :=
  List.mem_map_of_mem (f := Prod.swap) h

theorem rxRows_fst_iff (c : Byte) : c ∈ rxRows.map Prod.fst ↔ isOther c = false := by
  revert c; decide

/-- OTHER is what neither COLON, LF nor R55's table has (R54). -/
theorem isOther_iff (c : Byte) : isOther c = true ↔ c ≠ 0x3A ∧ c ≠ 0x0A ∧ digitValue c = none := by
  revert c; decide

/-- OTHER is tried last (R75). -/
theorem rxInstr_of_other {c : Byte} (h : isOther c = true) : rxInstr c = .pushOther c := by
  rcases lookupRow_cases rxRows (.pushOther c) c with hrow | ⟨hother, -⟩
  · have := (rxRows_fst_iff c).mp (List.mem_map_of_mem (f := Prod.fst) hrow)
    simp [h] at this
  · exact hother

theorem rxInstr_of_not_other {c : Byte} (h : isOther c = false) : (rxInstr c, c) ∈ classRows := by
  rcases lookupRow_cases rxRows (.pushOther c) c with hrow | ⟨-, hnone⟩
  · exact mem_classRows_of_mem_rxRows hrow
  · exact absurd ((rxRows_fst_iff c).mpr h) hnone

theorem ne_pushOther_of_mem_classRows {i : Instr} {c : Byte} (h : (i, c) ∈ classRows) (b : Byte) :
    i ≠ .pushOther b := by
  rintro rfl
  simp [classRows] at h

theorem wellFormed_of_mem_classRows {i : Instr} {c : Byte} (h : (i, c) ∈ classRows) (cfg : Config) :
    i.wellFormed cfg = true :=
  have hrows : classRows.map (fun row => row.1.wellFormed cfg) = classRows.map fun _ => true := rfl
  List.map_inj_left.mp hrows (i, c) h

/-- Settles O19: a byte of a full-mask row decodes to that row, any other to OTHER; both are PUSH of the byte. -/
theorem byteClassRowsArePush : Obligations.ByteClassRowsArePush := by
  unfold Obligations.ByteClassRowsArePush
  intro c s
  refine ⟨rxInstr c, decode_rx c, ?_⟩
  rw [← isOther_iff]
  cases ho : isOther c with
  | true =>
    rw [rxInstr_of_other ho]
    exact ⟨ho, .inl rfl, by simp, rfl⟩
  | false =>
    have hrow := rxInstr_of_not_other ho
    exact ⟨wellFormed_of_mem_classRows hrow s.cfg, .inr hrow, by simp [ne_pushOther_of_mem_classRows hrow],
      exec_eq_push_of_mem_classRows hrow s⟩

/-- The row of a response's byte 0 (R60, R66). -/
theorem isResponseRow_rspInstr (id : Byte) (rest : List Byte) : IsResponseRow (rspInstr id rest) id rest := by
  rcases lookupRow_cases (rspRows rest) (.rspUnassigned id rest) id with hrow | ⟨hother, hnone⟩
  · exact .inl (List.mem_map_of_mem (f := Prod.swap) hrow)
  · exact .inr ⟨hother, hnone⟩

theorem wellFormed_of_isResponseRow {i : Instr} {id : Byte} {rest : List Byte} (h : IsResponseRow i id rest)
    (cfg : Config) : i.wellFormed cfg = true := by
  rcases h with hmem | ⟨rfl, hnone⟩
  · simp only [List.mem_cons, List.not_mem_nil, or_false, Prod.mk.injEq] at hmem
    rcases hmem with ⟨rfl, -⟩ | ⟨rfl, -⟩ | ⟨rfl, -⟩ | ⟨rfl, -⟩ | ⟨rfl, -⟩ | ⟨rfl, -⟩ | ⟨rfl, -⟩ <;> rfl
  · simpa [Instr.wellFormed, responseCodes] using hnone

/-- Settles O50: a byte 0 of R60's table decodes to its row, any other to RSP.unassigned; a row is `parse` of its
frame. -/
theorem responseRowsAreParse : Obligations.ResponseRowsAreParse := by
  unfold Obligations.ResponseRowsAreParse
  intro id rest s
  have hrow := isResponseRow_rspInstr id rest
  exact ⟨_, decode_rsp id rest, wellFormed_of_isResponseRow hrow s.cfg, hrow, exec_responseRow hrow s⟩

/-! ### Operands -/

theorem decodeFlags_flagbyte (flags : Flags) : decodeFlags (flagbyte flags) = .ok flags := by
  simp [decodeFlags]

/-- A field of `n` bytes comes back (20_memory.md R31). -/
theorem ofNat_leNat_leBytes {n : Nat} (v : BitVec (8 * n)) :
    BitVec.ofNat (8 * n) (leNat (leBytes n v.toNat)) = v := by
  have hlt : v.toNat < 256 ^ n := by simpa [Nat.pow_mul] using v.isLt
  rw [leNat_leBytes, Nat.mod_eq_of_lt hlt, BitVec.ofNat_toNat, BitVec.setWidth_eq]

/-- A signed field of `n` bytes comes back from its two's complement. -/
theorem toInt_leNat_leBytes {n : Nat} {v : Int} (hn : 0 < 8 * n) (hlo : -2 ^ (8 * n - 1) ≤ v)
    (hhi : v < 2 ^ (8 * n - 1)) :
    (BitVec.ofNat (8 * n) (leNat (leBytes n (BitVec.ofInt (8 * n) v).toNat))).toInt = v := by
  rw [ofNat_leNat_leBytes, BitVec.toInt_ofInt_eq_self hn hlo hhi]

/-- Each variant of a value in range (44_command_builder.md R131). -/
theorem decodeValue_encodeValue (value : Value) (h : value.wellFormed = true) :
    decodeValue (encodeValue value) = .ok value := by
  cases value with
  | empty => rfl
  | u8 n => rfl
  | i8 n =>
    obtain ⟨hlo, hhi⟩ : -128 ≤ n ∧ n ≤ 127 := by simpa [Value.wellFormed] using h
    have hone : ∀ b : Byte, BitVec.ofNat 8 b.toNat = b := fun b => by simp
    have hn : (BitVec.ofInt 8 n).toInt = n := BitVec.toInt_ofInt_eq_self (by decide) (by omega) (by omega)
    exact congrArg (fun v => Except.ok (Value.i8 v)) ((congrArg BitVec.toInt (hone _)).trans hn)
  | u16 n => exact congrArg (fun v => Except.ok (Value.u16 v)) (ofNat_leNat_leBytes (n := 2) n)
  | i16 n =>
    obtain ⟨hlo, hhi⟩ : -32768 ≤ n ∧ n ≤ 32767 := by simpa [Value.wellFormed] using h
    exact congrArg (fun v => Except.ok (Value.i16 v))
      (toInt_leNat_leBytes (n := 2) (by decide) (by omega) (by omega))
  | u32 n => exact congrArg (fun v => Except.ok (Value.u32 v)) (ofNat_leNat_leBytes (n := 4) n)
  | i32 n =>
    obtain ⟨hlo, hhi⟩ : -2147483648 ≤ n ∧ n ≤ 2147483647 := by simpa [Value.wellFormed] using h
    exact congrArg (fun v => Except.ok (Value.i32 v))
      (toInt_leNat_leBytes (n := 4) (by decide) (by omega) (by omega))
  | ascii s => rfl
  | other b => rfl

theorem decodeItemFlags_encodeItemFlags (item : Code) (flags : Flags) :
    decodeItemFlags (encodeItemFlags item flags) = .ok (item, flags) := by
  have hitem : BitVec.ofNat 16 (leNat (leBytes 2 item.toNat)) = item := ofNat_leNat_leBytes (n := 2) item
  have hsplit : decodeItemFlags (encodeItemFlags item flags) =
      (decodeFlags (flagbyte flags)).map fun fl => (BitVec.ofNat 16 (leNat (leBytes 2 item.toNat)), fl) := rfl
  rw [hsplit, decodeFlags_flagbyte, hitem]
  rfl

theorem decodeItemFlagsValue_encode (item : Code) (flags : Flags) (value : Value) (h : value.wellFormed = true) :
    decodeItemFlagsValue (encodeItemFlags item flags ++ encodeValue value) = .ok (item, flags, value) := by
  have hlen : (encodeItemFlags item flags).length = 3 := rfl
  rw [decodeItemFlagsValue, List.take_left' hlen, List.drop_left' hlen, decodeItemFlags_encodeItemFlags,
    decodeValue_encodeValue value h]
  rfl

/-- Each of R59's commands comes back from its code and operands. -/
theorem decodeCommand_encode {cfg : Config} {cmd : Command} (h : cmd.wellFormed cfg = true) :
    decodeCommand (commandCode cmd) (commandOperands cmd) = .ok cmd := by
  cases cmd with
  | get item flags => exact congrArg (Except.map _) (decodeItemFlags_encodeItemFlags item flags)
  | set item flags value =>
    exact congrArg (Except.map _) (decodeItemFlagsValue_encode item flags value (Bool.and_eq_true_iff.mp h).2)
  | async item flags value =>
    exact congrArg (Except.map _) (decodeItemFlagsValue_encode item flags value (Bool.and_eq_true_iff.mp h).2)
  | _ => rfl

theorem decode_encodeCommand {cfg : Config} {cmd : Command} (h : cmd.wellFormed cfg = true) :
    decode (encodeCommand cmd) = .ok (cmdInstr cmd) := by
  rw [encodeCommand, decode_cmd, decodeCommand_encode h]
  rfl

/-- R66: RSP.unassigned is tried last. -/
theorem rspInstr_of_unassigned {code : Byte} (rest : List Byte) (h : (!responseCodes.contains code) = true) :
    rspInstr code rest = .rspUnassigned code rest := by
  rcases lookupRow_cases (rspRows rest) (.rspUnassigned code rest) code with hrow | ⟨hother, -⟩
  · have hcode : code ∈ responseCodes := List.mem_map_of_mem (f := Prod.fst) hrow
    simp [hcode] at h
  · exact hother

/-! ### The obligations -/

/-- Settles O58, by the rows of the table: a row without operands is computed, and each operand comes back from its
bytes by its own lemma. -/
theorem decodeOfEncodeIsTheOperation : Obligations.DecodeOfEncodeIsTheOperation := by
  unfold Obligations.DecodeOfEncodeIsTheOperation
  intro cfg i h
  cases i with
  | pushOther c => exact congrArg Except.ok (rxInstr_of_other h)
  | cmdGet item flags => exact decode_encodeCommand (cmd := .get item flags) h
  | cmdSet item flags value => exact decode_encodeCommand (cmd := .set item flags value) h
  | cmdAsync item flags value => exact decode_encodeCommand (cmd := .async item flags value) h
  | rspUnassigned code rest => exact congrArg Except.ok (rspInstr_of_unassigned rest h)
  | build cmd => exact (decode_build _ _).trans (congrArg (Except.map _) (decodeCommand_encode h))
  | send cmd => exact (decode_send _ _).trans (congrArg (Except.map _) (decodeCommand_encode h))
  | flagbyte flags => exact (decode_flagbyte _).trans (congrArg (Except.map _) (decodeFlags_flagbyte flags))
  | venc value => exact congrArg (Except.map _) (decodeValue_encodeValue value h)
  | _ => rfl

/-- Settles O59: each word is a short computation of the decoder. -/
theorem writtenWordsDecode : Obligations.WrittenWordsDecode := by
  unfold Obligations.WrittenWordsDecode
  exact ⟨rfl, rfl, rfl, rfl, rfl, rfl, rfl, rfl, rfl, rfl, rfl⟩

end Sys2Proof.Machine
end

section
/-! SUPPORT. What the output ports show of the state (10_state.md R20). -/

open Sys2Proof Sys2Proof.Claims

namespace Sys2Proof.Machine

/-- R12's codes are the places in its table. -/
theorem Fsm.code_eq_idxOf (f : Fsm) :
    f.code = BitVec.ofNat 2 ([Fsm.start, .lowNibble, .highNibble, .text].idxOf f) := by
  cases f <;> decide

theorem Fmt.code_eq_zero_iff (f : Fmt) : f.code = 0 ↔ f = .hex := by
  cases f <;> decide

/-- R160's codes are the places in its table. -/
theorem ErrKind.code_eq_idxOf (k : ErrKind) :
    k.code = BitVec.ofNat 4 ([ErrKind.none, .invalidHexDigit, .lengthMismatch, .checksumInvalid, .unknownResponseId,
      .unknownErrorId, .unknownItemId, .sliceConversionFailed, .invalidFlagsBits, .encInvariant].idxOf k) := by
  cases k <;> decide

theorem portOut_rdData_of_lt {s : State} {idx : Nat} {b : Byte} (h : s.dec.rbuf[idx]? = some b) :
    (portOut idx s).rdData = b := by
  simp [portOut, State.rdData, readByte, h]

/-- ENC_NEXT yields the place's byte, if it has one. -/
theorem nextByte_of_exec_encNext {s t : State} {b : Byte} (ha : s.enc.tact = true)
    (ht : exec .encNext s = .next t) (hb : t.result = .byte b) : s.enc.nextByte = some b := by
  cases hn : s.enc.nextByte with
  | none => cases ht.symm.trans (exec_encNext_no_digit s ha hn)
  | some c =>
    rw [eq_of_exec_eq_next ht (exec_encNext_live s c ha hn)] at hb
    exact congrArg some (Result.byte.inj hb)

/-- Settles O5: each port by the table or the definition it is of; `tx_data` by what ENC_NEXT yields. -/
theorem portsShowTheState : Obligations.PortsShowTheState := by
  unfold Obligations.PortsShowTheState
  intro s idx
  have hdone : s.dec.done = true ↔ s.dec.state = .start ∧ 0 < s.dec.rbuf.length := by
    rw [Decoder.done_iff, List.length_pos_iff]
  exact ⟨s.dec.state.code_eq_idxOf, hdone, valid_iff_acceptable s.dec.rbuf, s.dec.fmt.code_eq_zero_iff,
    Decoder.fault_iff, rfl, fun _ h => portOut_rdData_of_lt h, csum_eq_ofNat_sumOf s.dec.rbuf,
    s.dec.ferr.code_eq_idxOf, rfl,
    fun _ _ ha ht hb => portOut_txData_of_nextByte idx ha (nextByte_of_exec_encNext ha ht hb), rfl,
    s.enc.tferr.code_eq_idxOf⟩

end Sys2Proof.Machine
end

section
/-! SUPPORT. Who writes what (10_state.md R10, 20_memory.md R42, 60_exceptions.md R170). -/

open Sys2Proof Sys2Proof.Claims

namespace Sys2Proof.Machine

/-- No operation touches the parameters, the queue or the draw counter. -/
theorem exec_keeps_hostSide {i : Instr} {s t : State} (ht : exec i s = .next t) : HostSideKept s t := by
  rcases exec_next_cases ht with ⟨r, rfl⟩ | ⟨c, rfl⟩ | rfl | rfl | ⟨f, rfl⟩ | ⟨ha, b, rfl⟩ | ⟨bs, rfl⟩ | ⟨w, rfl⟩ <;>
    exact ⟨rfl, rfl, rfl⟩

theorem exec_pushSlice (bs : List Byte) (s : State) :
    exec (.pushSlice bs) s = .next { s with
      dec := (Decoder.pushSlice s.cfg bs s.dec).1
      result := .consumed (Decoder.pushSlice s.cfg bs s.dec).2.1 (Decoder.pushSlice s.cfg bs s.dec).2.2 } := rfl

theorem exec_send (cmd : Command) (s : State) : exec (.send cmd) s = exec (.encLoad (build cmd)) s := rfl

/-- An operation of the decoder writes the decoder and the result. -/
theorem exec_decoderOp {i : Instr} (h : IsDecoderOp i) (s : State) :
    ∃ d r, exec i s = .next { s with dec := d, result := r } := by
  rcases h with ⟨c, hpush⟩ | rfl | ⟨bs, rfl⟩
  · exact ⟨_, _, exec_of_isPush hpush rfl⟩
  · exact ⟨_, _, exec_clear s⟩
  · exact ⟨_, _, exec_pushSlice bs s⟩

/-- No operation of the encoder writes the decoder. -/
theorem exec_encoderOp_dec {i : Instr} (h : IsEncoderOp i) {s t : State} (ht : exec i s = .next t) :
    t.dec = s.dec := by
  rcases h with ⟨f, rfl⟩ | rfl | ⟨cmd, rfl⟩
  · exact eq_of_exec_eq_next ht (exec_encLoad f s) ▸ rfl
  · cases ha : s.enc.tact with
    | false => exact eq_of_exec_eq_next ht (exec_encNext_idle s ha) ▸ rfl
    | true =>
      cases hb : s.enc.nextByte with
      | some b => exact eq_of_exec_eq_next ht (exec_encNext_live s b ha hb) ▸ rfl
      | none => cases ht.symm.trans (exec_encNext_no_digit s ha hb)
  · exact eq_of_exec_eq_next ht ((exec_send cmd s).trans (exec_encLoad _ s)) ▸ rfl

theorem isDecoderOp_of_classRow {i : Instr} (h : i ∈ classRows.map Prod.fst) : IsDecoderOp i := by
  obtain ⟨⟨i, c⟩, hrow, rfl⟩ := List.mem_map.mp h
  exact .inl ⟨c, .inr (.inr hrow)⟩

/-- An operation that is no agent's, and not RESET or `decode`, only answers (R170). -/
theorem exec_eq_answer_or_writes (i : Instr) (s : State) :
    IsDecoderOp i ∨ IsEncoderOp i ∨ i = .reset ∨ (∃ w, i = .decode w) ∨
      ∃ r, exec i s = .next { s with result := r } := by
  by_cases hrow : i ∈ classRows.map Prod.fst
  · exact .inl (isDecoderOp_of_classRow hrow)
  · cases i with
    | pushOther c => exact .inl (.inl ⟨c, .inr (.inl rfl)⟩)
    | push c => exact .inl (.inl ⟨c, .inl rfl⟩)
    | clear => exact .inl (.inr (.inl rfl))
    | pushSlice bs => exact .inl (.inr (.inr ⟨bs, rfl⟩))
    | encLoad f => exact .inr (.inl (.inl ⟨f, rfl⟩))
    | encNext => exact .inr (.inl (.inr (.inl rfl)))
    | send cmd => exact .inr (.inl (.inr (.inr ⟨cmd, rfl⟩)))
    | reset => exact .inr (.inr (.inl rfl))
    | decode w => exact .inr (.inr (.inr (.inl ⟨w, rfl⟩)))
    | pushColon | pushLf | pushDigit0 | pushDigit1 | pushDigit2 | pushDigit3 | pushDigit4 | pushDigit5 | pushDigit6
    | pushDigit7 | pushDigit8 | pushDigit9 | pushDigitA | pushDigitB | pushDigitC | pushDigitD | pushDigitE
    | pushDigitF | pushDigitLcA | pushDigitLcB | pushDigitLcC | pushDigitLcD | pushDigitLcE | pushDigitLcF =>
      exact absurd (by decide) hrow
    | _ => exact .inr (.inr (.inr (.inr ⟨_, rfl⟩)))

/-- Settles O6: an operation is the decoder's, the encoder's, RESET or `decode`, or it only answers. -/
theorem agentsShareNoState : Obligations.AgentsShareNoState := by
  unfold Obligations.AgentsShareNoState
  intro i s t ht
  refine ⟨exec_keeps_hostSide ht, fun hd => ?_, fun he => exec_encoderOp_dec he ht, fun hd he hreset hdecode => ?_⟩
  · obtain ⟨d, r, hu⟩ := exec_decoderOp hd s
    exact eq_of_exec_eq_next ht hu ▸ ⟨rfl, rfl⟩
  · rcases exec_eq_answer_or_writes i s with h | h | h | ⟨w, h⟩ | ⟨r, hu⟩
    · exact absurd h hd
    · exact absurd h he
    · exact absurd h hreset
    · exact absurd h (hdecode w)
    · exact eq_of_exec_eq_next ht hu ▸ ⟨rfl, rfl, rfl⟩

end Sys2Proof.Machine
end

section
/-! SUPPORT. PUSH's errors (60_exceptions.md R165, R185) and its writes to the buffer (20_memory.md R37). -/

open Sys2Proof Sys2Proof.Claims

namespace Sys2Proof.Machine

/-- A PUSH that reports an error is a fault entry of a decoder that had none. -/
theorem Decoder.push_of_some {cfg : Config} {c : Byte} {d : Decoder} {e : Err} (h : (d.push cfg c).2 = some e) :
    ∃ k, (k = .invalidHexDigit ∨ k = .lengthMismatch) ∧ d.ferr = .none ∧ e = ⟨k, some c⟩ ∧
      d.push cfg c = d.raise k c := by
  rcases d.push_cases cfg c with ⟨-, hp⟩ | ⟨-, -, -, hp⟩ | ⟨-, -, -, -, hp⟩ | ⟨-, -, -, -, hp⟩ | ⟨_, -, -, -, hp⟩ |
    ⟨hf, -, -, hp⟩ | ⟨-, -, -, hp⟩ | ⟨_, -, -, -, -, hp⟩ | ⟨-, -, -, hp⟩ | ⟨hf, -, -, hp⟩ <;>
    rw [hp] at h ⊢ <;> cases h
  · exact ⟨_, .inl rfl, hf, rfl, rfl⟩
  · exact ⟨_, .inr rfl, hf, rfl, rfl⟩

theorem Result.ofErr_eq_err_iff (o : Option Err) (e : Err) : Result.ofErr o = .err e ↔ o = some e := by
  cases o <;> simp [Result.ofErr]

/-- Settles O18: while faulted PUSH leaves the decoder as it is and reports nothing. -/
theorem pushWhileFaultedIsRefused : Obligations.PushWhileFaultedIsRefused := by
  unfold Obligations.PushWhileFaultedIsRefused
  intro i c s hi hf
  exact exec_of_isPush hi (s.dec.push_faulted s.cfg c hf)

/-- Settles O20: a PUSH that reports an error is a fault entry. -/
theorem decoderFaultEntryIsPrecise : Obligations.DecoderFaultEntryIsPrecise := by
  unfold Obligations.DecoderFaultEntryIsPrecise
  intro i c s t e hi ht hr
  obtain rfl := eq_of_exec_eq_next ht ((exec_eq_push_of_isPush hi s).trans (exec_push c s))
  obtain ⟨k, hk, hf, rfl, hraise⟩ := Decoder.push_of_some ((Result.ofErr_eq_err_iff _ e).mp hr)
  have hfault : k ≠ .none := by rcases hk with rfl | rfl <;> decide
  rw [hraise]
  exact ⟨hf, rfl, rfl, hk, Decoder.fault_iff.mpr hfault, rfl, rfl⟩

theorem getLast?_orLast {buf : List Byte} {v : Nibble} {b : Byte} (h : buf.getLast? = some b) :
    (orLast buf v).getLast? = some (b ||| zextNibble v) := by
  obtain ⟨before, rfl⟩ := List.getLast?_eq_some_iff.mp h
  simp

/-- Outside Start a PUSH keeps the buffer, appends a byte, or ORs a nibble into the last one. -/
theorem Decoder.push_rbuf_cases (cfg : Config) (c : Byte) (d : Decoder) (hs : d.state ≠ .start) :
    (d.push cfg c).1.rbuf = d.rbuf ∨ (∃ b, (d.push cfg c).1.rbuf = appendByte d.rbuf b) ∨
      ∃ v, (d.push cfg c).1.rbuf = orLast d.rbuf v := by
  rcases d.push_cases cfg c with ⟨-, hp⟩ | ⟨-, h, -, -⟩ | ⟨-, h, -, -, -⟩ | ⟨-, h, -, -, -⟩ | ⟨v, -, -, -, hp⟩ |
    ⟨-, -, -, hp⟩ | ⟨-, -, -, hp⟩ | ⟨v, -, -, -, -, hp⟩ | ⟨-, -, -, hp⟩ | ⟨-, -, -, hp⟩
  · exact .inl (by rw [hp])
  · exact absurd h hs
  · exact absurd h hs
  · exact absurd h hs
  · exact .inr (.inr ⟨v, by rw [hp]; rfl⟩)
  · exact .inl (by rw [hp]; rfl)
  · exact .inl (by rw [hp]; rfl)
  · exact .inr (.inl ⟨_, by rw [hp]; rfl⟩)
  · exact .inr (.inl ⟨_, by rw [hp]; rfl⟩)
  · exact .inl (by rw [hp]; rfl)

/-- Settles O23: by what becomes of the buffer. -/
theorem pushChangesAtMostOneByte : Obligations.PushChangesAtMostOneByte := by
  unfold Obligations.PushChangesAtMostOneByte
  intro i c s t hi hs ht
  have hdec : t.dec.rbuf = (s.dec.push s.cfg c).1.rbuf :=
    congrArg (·.dec.rbuf) (eq_of_exec_eq_next ht (exec_of_isPush hi rfl))
  rcases s.dec.push_rbuf_cases s.cfg c hs with hbuf | ⟨b, hbuf⟩ | ⟨v, hbuf⟩ <;> rw [hdec, hbuf]
  · exact .inr ⟨rfl, fun _ _ => rfl, .inl rfl⟩
  · exact .inl ⟨appendByte_length _ b, readByte_appendByte_of_lt _ b⟩
  · exact .inr ⟨orLast_length _ v, readByte_orLast_of_ne _ v, .inr ⟨v, fun _ => getLast?_orLast⟩⟩

end Sys2Proof.Machine
end

section
/-! SUPPORT. The composites `push_slice` and `decode` (42_frame_decoder.md R104, R105). -/

open Sys2Proof Sys2Proof.Claims

namespace Sys2Proof.Machine

/-! ### Where `push_slice` stops -/

section
variable (cfg : Config) (d : Decoder) (c : Byte) (cs : List Byte)

theorem after_cons : after cfg (c :: cs) d = after cfg cs (d.push cfg c).1 := rfl

theorem stopsAt_zero :
    StopsAt cfg d (c :: cs) 0 ↔ (d.push cfg c).1.done = true ∨ (d.push cfg c).2 ≠ none := by
  simp [StopsAt, after]

theorem stopsAt_succ (k : Nat) : StopsAt cfg d (c :: cs) (k + 1) ↔ StopsAt cfg (d.push cfg c).1 cs k := by
  simp [StopsAt, after_cons]

theorem errorAt_succ (k : Nat) : errorAt cfg d (c :: cs) (k + 1) = errorAt cfg (d.push cfg c).1 cs k := by
  simp [errorAt, after_cons]

end

/-- R104 on the decoder: `n` bytes are consumed, none before the last of them stops, and short of the end the last one
does. -/
def StopsAfter (cfg : Config) (d : Decoder) (bs : List Byte) (n : Nat) : Prop :=
  n ≤ bs.length ∧ (∀ k, k + 1 < n → ¬ StopsAt cfg d bs k) ∧ (n < bs.length → ∃ k, n = k + 1 ∧ StopsAt cfg d bs k)

theorem StopsAfter.cons {cfg : Config} {d : Decoder} {c : Byte} {cs : List Byte} {n : Nat}
    (hgo : ¬ StopsAt cfg d (c :: cs) 0) (h : StopsAfter cfg (d.push cfg c).1 cs n) :
    StopsAfter cfg d (c :: cs) (n + 1) := by
  obtain ⟨hle, hbefore, hlast⟩ := h
  refine ⟨Nat.succ_le_succ hle, fun k hk => ?_, fun hlt => ?_⟩
  · cases k with
    | zero => exact hgo
    | succ k => exact mt (stopsAt_succ cfg d c cs k).mp (hbefore k (Nat.lt_of_succ_lt_succ hk))
  · obtain ⟨k, rfl, hstop⟩ := hlast (Nat.lt_of_succ_lt_succ hlt)
    exact ⟨k + 1, rfl, (stopsAt_succ cfg d c cs k).mpr hstop⟩

/-- The error that `push_slice` reports after `n` bytes. -/
def lastError (cfg : Config) (d : Decoder) (bs : List Byte) (n : Nat) : Option Err :=
  if n = 0 then none else errorAt cfg d bs (n - 1)

theorem lastError_cons {cfg : Config} {d : Decoder} {c : Byte} (cs : List Byte) (n : Nat)
    (he : (d.push cfg c).2 = none) :
    lastError cfg d (c :: cs) (n + 1) = lastError cfg (d.push cfg c).1 cs n := by
  cases n with
  | zero => exact he
  | succ n => exact errorAt_succ cfg d c cs n

theorem Decoder.pushSlice_stopsAfter (cfg : Config) (bs : List Byte) (d : Decoder) :
    ∃ n, StopsAfter cfg d bs n ∧
      Decoder.pushSlice cfg bs d = (after cfg (bs.take n) d, n, lastError cfg d bs n) := by
  induction bs generalizing d with
  | nil => exact ⟨0, ⟨le_rfl, nofun, nofun⟩, rfl⟩
  | cons c cs ih =>
    by_cases hstop : StopsAt cfg d (c :: cs) 0
    · refine ⟨1, ⟨by simp, by simp, fun _ => ⟨0, rfl, hstop⟩⟩, ?_⟩
      have hpush := ((stopsAt_zero cfg d c cs).mp hstop).symm
      rw [Decoder.pushSlice_cons_stop cfg c cs d (by rwa [Option.isSome_iff_ne_none])]
      rfl
    · obtain ⟨hdone, he⟩ : ¬ (d.push cfg c).1.done = true ∧ (d.push cfg c).2 = none := by
        simpa [stopsAt_zero] using hstop
      obtain ⟨n, hn, hslice⟩ := ih (d.push cfg c).1
      refine ⟨n + 1, hn.cons hstop, ?_⟩
      rw [Decoder.pushSlice_cons_go cfg c cs d he (eq_false_of_ne_true hdone), hslice, lastError_cons cs n he,
        List.take_succ_cons, after_cons]

/-- Settles O25, by induction on the bytes: the first of them stops, or the rest is a `push_slice` of its own. -/
theorem pushSliceStopsAtFrameOrError : Obligations.PushSliceStopsAtFrameOrError := by
  unfold Obligations.PushSliceStopsAtFrameOrError
  intro s bs
  obtain ⟨n, ⟨hle, hbefore, hlast⟩, hslice⟩ := Decoder.pushSlice_stopsAfter s.cfg bs s.dec
  refine ⟨n, hle, hbefore, hlast, ?_⟩
  rw [exec_pushSlice, hslice]
  rfl

theorem wireResult_of_error (w : List Byte) (d : Decoder) (n : Nat) (e : Err) :
    wireResult w (d, n, some e) = .err e := rfl

theorem wireResult_of_no_error (w : List Byte) (d : Decoder) (n : Nat) :
    wireResult w (d, n, none) = if d.done = true ∧ n = w.length then .ok d.rbuf else .incomplete := by
  simp [wireResult]

/-- Settles O26: `decode` runs `push_slice` on what RESET leaves, and its result is a function of what that returns. -/
theorem decodeIsResetThenPushSlice : Obligations.DecodeIsResetThenPushSlice := by
  unfold Obligations.DecodeIsResetThenPushSlice
  intro s s0 s1 w n e h0 h1 hr
  obtain rfl := eq_of_exec_eq_next h0 (exec_reset s)
  obtain ⟨d, m, o, hslice⟩ : ∃ d m o, Decoder.pushSlice s.cfg w Decoder.afterReset = (d, m, o) := ⟨_, _, _, rfl⟩
  rw [exec_pushSlice, hslice] at h1
  obtain rfl := Host.Outcome.next.inj h1
  obtain ⟨rfl, rfl⟩ := Result.consumed.inj hr
  rw [exec_decode, hslice]
  cases o with
  | none => simp only [wireResult_of_no_error]
  | some e => simp only [wireResult_of_error]

end Sys2Proof.Machine
end

section
/-! SUPPORT. Text blocks (30_encoding.md R52, 42_frame_decoder.md R98, R107) and the marker counter (10_state.md
R22). -/

open Sys2Proof Sys2Proof.Claims

namespace Sys2Proof.Machine

/-! ### The marker counter -/

/-- MARKER's first byte stands nowhere else in it, so no beginning of MARKER ends with a shorter one. -/
theorem marker_newline {i : Nat} (h : marker[i]? = some 0x0A) : i = 0 := by
  obtain ⟨hlt, -⟩ := List.getElem?_eq_some_iff.mp h
  have hall : ∀ j, j < 10 → marker[j]? = some 0x0A → j = 0 := by decide
  exact hall i hlt h

theorem marker_zero_iff (c : Byte) : marker[0]? = some c ↔ c = 0x0A := by
  simp [marker, eq_comm]

/-- The first `i + 1` bytes of MARKER end the sequence when the first `i` end what is before its last byte, and the
last byte is MARKER's next. -/
theorem take_succ_marker_suffix_iff {i : Nat} (hi : i < 10) (buf : List Byte) (c : Byte) :
    marker.take (i + 1) <:+ buf ++ [c] ↔ marker.take i <:+ buf ∧ marker[i]? = some c := by
  have hget : marker[i]? = some marker[i] := List.getElem?_eq_getElem hi
  rw [List.take_succ_eq_append_getElem hi, hget, List.suffix_concat_iff]
  constructor
  · rintro (hnil | ⟨t, ht, hsuf⟩)
    · simp at hnil
    · obtain ⟨rfl, hc⟩ := List.append_inj' ht rfl
      exact ⟨hsuf, by simpa using hc⟩
  · rintro ⟨hsuf, hc⟩
    exact .inr ⟨marker.take i, by simpa using hc, hsuf⟩

/-- What `mk` says of the bytes so far: of the beginnings of MARKER only the empty one and the one of `mk` bytes
end them. -/
def MarkerBeginnings (mk : Nat) (buf : List Byte) : Prop :=
  ∀ j ≤ 10, marker.take j <:+ buf ↔ j = 0 ∨ j = mk

/-- One update of `mk`, for the beginnings that are not empty. -/
theorem marker_next_iff (mk i : Nat) (c : Byte) :
    ((i = 0 ∨ i = mk) ∧ marker[i]? = some c) ↔ i + 1 = mkStep mk c := by
  rw [mkStep]
  by_cases hnext : marker[mk]? = some c
  · rw [if_pos hnext]
    constructor
    · rintro ⟨rfl | rfl, hi⟩
      · rw [(marker_zero_iff c).mp hi] at hnext
        rw [marker_newline hnext]
      · rfl
    · intro h
      obtain rfl : i = mk := by omega
      exact ⟨.inr rfl, hnext⟩
  · rw [if_neg hnext]
    by_cases hc : c = 0x0A
    · rw [if_pos hc]
      constructor
      · rintro ⟨rfl | rfl, hi⟩
        · rfl
        · exact absurd hi hnext
      · intro h
        obtain rfl : i = 0 := by omega
        exact ⟨.inl rfl, (marker_zero_iff c).mpr hc⟩
    · rw [if_neg hc]
      constructor
      · rintro ⟨rfl | rfl, hi⟩
        · exact absurd ((marker_zero_iff c).mp hi) hc
        · exact absurd hi hnext
      · intro h
        omega

theorem MarkerBeginnings.step {mk : Nat} {buf : List Byte} (h : MarkerBeginnings mk buf) (c : Byte) :
    MarkerBeginnings (mkStep mk c) (buf ++ [c]) := by
  intro j hj
  cases j with
  | zero => simp
  | succ i =>
    have hi : i < 10 := hj
    rw [take_succ_marker_suffix_iff hi, h i hi.le, marker_next_iff]
    simp

theorem markerBeginnings_mkCounter (buf : List Byte) : MarkerBeginnings (mkCounter buf) buf := by
  induction buf using List.reverseRecOn with
  | nil =>
    intro j hj
    have hall : ∀ j ≤ 10, marker.take j = [] ↔ j = 0 ∨ j = 0 := by decide
    rw [List.suffix_nil]
    exact hall j hj
  | append_singleton buf c ih =>
    rw [mkCounter, List.foldl_append]
    exact ih.step c

theorem endsWithMarker_iff_suffix (s : List Byte) : EndsWithMarker s ↔ markerBytes <:+ s := by
  simp only [EndsWithMarker, List.IsSuffix, eq_comm]

/-- Settles O31, by induction on the buffer from its end: `mk` is the length of the longest beginning of MARKER
that ends it. -/
theorem markerCounterIsExact : Obligations.MarkerCounterIsExact := by
  unfold Obligations.MarkerCounterIsExact
  intro buf
  have hall := markerBeginnings_mkCounter buf 10 le_rfl
  have htake : marker.take 10 = markerBytes := rfl
  rw [endsWithMarker_iff_suffix, ← htake, hall]
  simp [eq_comm]

/-! ### The decoder inside a text block -/

/-- The decoder with no fault in a state of the text form, holding `buf`. -/
def Decoder.textAt (st : Fsm) (buf : List Byte) : Decoder :=
  { state := st, rbuf := buf, fmt := .text, ferr := .none, ebyte := 0x00 }

section
variable {cfg : Config}

/-- Bytes before MARKER is complete are stored one by one, as far as there is room. -/
theorem Decoder.pushSlice_textAt (xs cs buf : List Byte) (hm : ∀ k < xs.length, ¬ EndsWithMarker (buf ++ xs.take k))
    (hfits : ∀ cap, cfg.bufCap = some cap → buf.length + xs.length ≤ cap) :
    Decoder.pushSlice cfg (xs ++ cs) (Decoder.textAt .text buf) =
      let r := Decoder.pushSlice cfg cs (Decoder.textAt .text (buf ++ xs))
      (r.1, r.2.1 + xs.length, r.2.2) := by
  induction xs generalizing buf with
  | nil => simp
  | cons x xs ih =>
    have hroom : cfg.bufCap ≠ some buf.length := fun h => by
      have := hfits _ h
      simp at this
    have hno : ¬ EndsWithMarker buf := by simpa using hm 0 (by simp)
    have hp : (Decoder.textAt .text buf).push cfg x = (Decoder.textAt .text (buf ++ [x]), none) := by
      rw [Decoder.push_text_store rfl rfl hroom, Decoder.storeText_of_no_marker hno]
      rfl
    have hm' : ∀ k < xs.length, ¬ EndsWithMarker (buf ++ [x] ++ xs.take k) := fun k hk => by
      simpa using hm (k + 1) (Nat.succ_lt_succ hk)
    have hfits' : ∀ cap, cfg.bufCap = some cap → (buf ++ [x]).length + xs.length ≤ cap := fun cap h => by
      have := hfits cap h
      simp at this ⊢
      omega
    rw [List.cons_append, Decoder.pushSlice_cons_go _ _ _ _ (by rw [hp]) (by rw [hp]; rfl), hp, ih _ hm' hfits']
    simp [Nat.add_assoc]

/-- The first byte of a text block, from the state RESET leaves, and the bytes after it before MARKER is complete. -/
theorem Decoder.pushSlice_text (b0 : Byte) (xs cs : List Byte) (ht : cfg.textEn = true) (h0 : b0 ≠ 0x3A)
    (hm : ∀ k < xs.length, ¬ EndsWithMarker (b0 :: xs.take k))
    (hfits : ∀ cap, cfg.bufCap = some cap → xs.length + 1 ≤ cap) :
    Decoder.pushSlice cfg (b0 :: (xs ++ cs)) Decoder.afterReset =
      let r := Decoder.pushSlice cfg cs (Decoder.textAt .text (b0 :: xs))
      (r.1, r.2.1 + (xs.length + 1), r.2.2) := by
  have hp : Decoder.afterReset.push cfg b0 = (Decoder.textAt .text [b0], none) :=
    Decoder.push_start_text rfl rfl h0 ht
  have hslice := Decoder.pushSlice_textAt (cfg := cfg) xs cs [b0] hm
    (fun cap h => by have := hfits cap h; simp; omega)
  rw [Decoder.pushSlice_cons_go _ _ _ _ (by rw [hp]) (by rw [hp]; rfl), hp, hslice]
  rfl

/-- The byte after MARKER ends the block, whatever it is (R98). -/
theorem Decoder.pushSlice_checksum (buf : List Byte) (ck : Byte) (hm : EndsWithMarker buf)
    (hfits : ∀ cap, cfg.bufCap = some cap → buf.length + 1 ≤ cap) :
    Decoder.pushSlice cfg [ck] (Decoder.textAt .text buf) = (Decoder.textAt .start (buf ++ [ck]), 1, none) := by
  have hroom : cfg.bufCap ≠ some buf.length := fun h => by
    have := hfits _ h
    omega
  have hp : (Decoder.textAt .text buf).push cfg ck = (Decoder.textAt .start (buf ++ [ck]), none) := by
    rw [Decoder.push_text_store rfl rfl hroom, Decoder.storeText_of_marker hm]
    rfl
  have hdone : (Decoder.textAt .start (buf ++ [ck])).done = true :=
    Decoder.done_iff.mpr ⟨rfl, List.concat_ne_nil _ _⟩
  rw [Decoder.pushSlice_cons_stop _ _ _ _ (.inr (by rw [hp]; exact hdone)), hp]

end

/-- Settles O29: the bytes up to the end of the first MARKER are stored one by one, and the next byte ends the block. -/
theorem textBlockEndsAfterFirstMarker : Obligations.TextBlockEndsAfterFirstMarker := by
  unfold Obligations.TextBlockEndsAfterFirstMarker
  intro s b0 body ck ht h0 hm hfirst hfits
  have hslice : Decoder.pushSlice s.cfg (b0 :: body ++ [ck]) Decoder.afterReset =
      (Decoder.textAt .start (b0 :: body ++ [ck]), (b0 :: body ++ [ck]).length, none) := by
    rw [List.cons_append, Decoder.pushSlice_text b0 body [ck] ht h0
        (fun k hk => hfirst (k + 1) (Nat.succ_lt_succ hk))
        (fun cap h => Nat.le_of_succ_le (hfits cap h)),
      Decoder.pushSlice_checksum _ ck hm hfits]
    simp [Nat.add_comm]
  have hdone : (Decoder.textAt .start (b0 :: body ++ [ck])).done = true := rfl
  rw [exec_decode, hslice, wireResult_of_done _ _ hdone]
  rfl

/-! ### A garbage byte before a hex frame (R107) -/

/-- Every byte of a wire string is a digit, the colon or the LF (30_encoding.md R51). -/
theorem mem_hexWire {d0 : Byte} {ps : List (Byte × Byte)} (hd : AllDigits d0 ps) {c : Byte}
    (hc : c ∈ hexWire d0 ps) : c = 0x3A ∨ c = 0x0A ∨ digitValue c ≠ none := by
  obtain ⟨h0, hps⟩ := hd
  simp only [hexWire, List.mem_cons, List.mem_append, List.mem_flatMap, List.not_mem_nil, or_false] at hc
  rcases hc with rfl | rfl | ⟨p, hp, rfl | rfl⟩ | rfl
  · exact .inl rfl
  · exact .inr (.inr h0)
  · exact .inr (.inr (hps p hp).1)
  · exact .inr (.inr (hps p hp).2)
  · exact .inr (.inl rfl)

/-- MARKER has an `'h'` after its first byte, which no part of a wire string has. -/
theorem not_endsWithMarker_of_hexWire {d0 : Byte} {ps : List (Byte × Byte)} (hd : AllDigits d0 ps) (g : Byte)
    (k : Nat) : ¬ EndsWithMarker (g :: (hexWire d0 ps).take k) := by
  rintro ⟨p, hp⟩
  have htail : (hexWire d0 ps).take k = (p ++ markerBytes).tail := congrArg List.tail hp
  have hin : (0x68 : Byte) ∈ (p ++ markerBytes).tail := by
    cases p <;> simp [markerBytes]
  rcases mem_hexWire hd (List.mem_of_mem_take (htail ▸ hin)) with h | h | h
  · exact absurd h (by decide)
  · exact absurd h (by decide)
  · exact h (by decide)

/-- An undone block is Incomplete (R105). -/
theorem wireResult_of_not_done (w : List Byte) (d : Decoder) (n : Nat) (h : d.done = false) :
    wireResult w (d, n, none) = .incomplete := by
  rw [wireResult_of_no_error, if_neg (by simp [h])]

/-- Settles O30: with TEXT_EN = 0 the byte leaves the decoder in Start; with TEXT_EN = 1 it opens a text block, in which
no MARKER comes. -/
theorem garbageBeforeHexFrame : Obligations.GarbageBeforeHexFrame := by
  unfold Obligations.GarbageBeforeHexFrame
  intro s g d0 ps hg hd
  refine ⟨fun ht hfits => ⟨_, exec_decode _ s, ?_⟩, fun ht hfits => ⟨_, exec_decode _ s, ?_⟩⟩
  · have hp : Decoder.afterReset.push s.cfg g = (Decoder.afterReset, none) :=
      Decoder.push_start_drop rfl rfl hg ht
    have hslice : Decoder.pushSlice s.cfg (g :: hexWire d0 ps) Decoder.afterReset =
        (Decoder.hexAt .start (hexBuffer d0 ps), (g :: hexWire d0 ps).length, none) := by
      rw [Decoder.pushSlice_cons_go _ _ _ _ (by rw [hp]) (by rw [hp]; rfl), hp,
        Decoder.pushSlice_hexWire s.cfg Decoder.afterReset d0 ps rfl rfl rfl hd hfits]
      rfl
    have hdone : (Decoder.hexAt .start (hexBuffer d0 ps)).done = true := rfl
    rw [hslice, wireResult_of_done _ _ hdone]
    rfl
  · have hslice : Decoder.pushSlice s.cfg (g :: hexWire d0 ps) Decoder.afterReset =
        (Decoder.textAt .text (g :: hexWire d0 ps), (hexWire d0 ps).length + 1, none) := by
      simpa using Decoder.pushSlice_text (cfg := s.cfg) g (hexWire d0 ps) [] ht hg
        (fun k _ => not_endsWithMarker_of_hexWire hd g k) hfits
    have hdone : (Decoder.textAt .text (g :: hexWire d0 ps)).done = false := rfl
    rw [hslice, wireResult_of_not_done _ _ _ hdone]
    exact ⟨rfl, rfl, rfl, rfl⟩

end Sys2Proof.Machine
end

section
/-! SUPPORT. Equations of the encoder, the builder and the parser: `encode` (43_frame_encoder.md R113), SEND
(44_command_builder.md R132), the plain commands (R121 to R125), unassigned response codes (45_response_parser.md
R142). -/

open Sys2Proof Sys2Proof.Claims

namespace Sys2Proof.Machine

/-- R113's pseudocode, by the table of upper-case digits. -/
theorem spell_eq_spelling {id : Byte} (rest : List Byte) (hid : id ≤ 0x0F) :
    spell (id :: rest) = spelling (id :: rest) := by
  simp only [spell, spelling, hexDigit_lowNibble_of_le id hid, ← hexDigit_highNibble, ← hexDigit_lowNibble]
  rfl

theorem exec_encode_of_error {s : State} {f : List Byte} {e : Err} (h : loadError s.cfg f = some e) :
    exec (.encode f) s = .next { s with result := .err e } := by
  simp [exec, execEncode, answer, encodeFrame, h, Result.ofExcept, State.setResult]

/-- Settles O34: by which of R111's checks the frame fails first. -/
theorem encodeSpellsOrFails : Obligations.EncodeSpellsOrFails := by
  unfold Obligations.EncodeSpellsOrFails
  intro s f
  refine ⟨fun h => exec_encode_of_error (loadError_of_length h), ?_, ?_⟩
  · rintro id rest rfl hfits hid
    exact exec_encode_of_error (loadError_of_id hfits hid)
  · rintro id rest rfl hfits hid
    rw [← spell_eq_spelling rest hid]
    exact exec_encode_spell s _ (loadError_none_of_fits s id rest hfits hid)

/-- Settles O45: a built frame starts with a command code, which is one digit, so only its length can be refused. -/
theorem sendLoadsTheBuiltFrame : Obligations.SendLoadsTheBuiltFrame := by
  unfold Obligations.SendLoadsTheBuiltFrame
  intro s cmd
  refine ⟨build cmd, exec_build cmd s, exec_send cmd s, fun hfits => ?_, fun hlong => ?_⟩
  · obtain ⟨-, -, hload⟩ := encLoadLoadsOrFaults s (build cmd)
    exact (exec_send cmd s).trans (hload _ _ (build_eq_cons cmd) hfits (Command.code_le cmd))
  · exact (exec_send cmd s).trans (exec_encLoad_of_error (loadError_of_length (.inr hlong)))

/-- Settles O42: each row is `build` of its command, whose two bytes are computed. -/
theorem plainCommandFrames : Obligations.PlainCommandFrames := by
  unfold Obligations.PlainCommandFrames
  intro s
  exact ⟨rfl, rfl, rfl, rfl, rfl, (exec_cmdInstr .boot s).symm, (exec_cmdInstr .ping s).symm,
    (exec_cmdInstr .version s).symm, (exec_cmdInstr .product s).symm, (exec_cmdInstr .restart s).symm⟩

/-- Every row of the dispatch but the last is one of the seven assigned codes (R60, R142). -/
theorem parsePayload_unassigned (cfg : Config) {id : Byte} (p : List Byte)
    (h : id ∉ [(0x01 : Byte), 0x03, 0x04, 0x05, 0x07, 0x08, 0x0A]) :
    parsePayload cfg id p = failed .unknownResponseId := by
  have hne : id.toNat ∉ [0x01, 0x03, 0x04, 0x05, 0x07, 0x08, 0x0A] := by
    simpa [← BitVec.toNat_inj] using h
  unfold parsePayload
  split <;> simp_all

/-- Settles O52: a valid frame is dispatched on byte 0, and RSP.unassigned is `parse` of its frame. -/
theorem unassignedResponseCodeFails : Obligations.UnassignedResponseCodeFails := by
  unfold Obligations.UnassignedResponseCodeFails
  intro id rest s hacc hid
  have hparse : exec (.parse (id :: rest)) s = .next { s with result := plain .unknownResponseId } := by
    rw [exec_parse, parse_valid _ _ _ ((valid_iff_acceptable _).mpr hacc), parsePayload_unassigned _ _ hid]
    rfl
  exact ⟨(exec_responseRow (.inr ⟨rfl, hid⟩) s).trans hparse, hparse⟩

end Sys2Proof.Machine
end
